-- ==== Sys2Proof/Word.lean ====
section
/-! DEFINITION. The widths of the converter (00_scope.md R8, R9; 10_state.md R24). Bit 0 is the least
significant bit, as in `BitVec`. -/

namespace Sys2Proof

/-- One byte on the two-wire bus. -/
abbrev Byte := BitVec 8

/-- A sensor register, a raw value or a command word (R8, R80). -/
abbrev Word := BitVec 16

/-- A sensor register address (R8, 90_conflicts.md C1). -/
abbrev Addr := BitVec 8

/-- A 64-bit pattern: an IEEE 754 binary64 value (R97) or the contents of RESULT (R24). -/
abbrev F64 := BitVec 64

end Sys2Proof
end

