-- ==== Sys2Proof/Syntax.lean ====
section
/-! DEFINITION. The seven commands (00_scope.md R3, 30_encoding.md R82), one constructor for each row of
the opcode table, in the table's order. -/

namespace Sys2Proof

/-- A command. `init` carries the sample rate as the integer the source's call takes; a command word
carries it in 8 bits (R81), which `Instr.WellFormed` states. -/
inductive Instr where
  | init (rate : Nat)
  | sleep
  | wake
  | rdvobj
  | rdtamb
  | rddiec
  | rdobjc
  deriving DecidableEq, Repr

end Sys2Proof
end

