-- ==== Sys2Proof/WellFormed.lean ====
section
/-! DEFINITION. Which commands have a command word (30_encoding.md R81, R83, R84). -/

namespace Sys2Proof

/-- R81: the operand of INIT fits in `imm8`, an unsigned integer 0 to 255; every such value is a legal
encoding (R83). The other commands have no operand (R84). -/
def Instr.wellFormed : Instr → Bool
  | .init rate => decide (rate < 256)
  | .sleep => true
  | .wake => true
  | .rdvobj => true
  | .rdtamb => true
  | .rddiec => true
  | .rdobjc => true

/-- The command can be written as a command word. -/
abbrev Instr.WellFormed (i : Instr) : Prop := i.wellFormed = true

end Sys2Proof
end

