-- ==== Sys2Proof/Decode.lean ====
section
/-! DEFINITION. The command word's decoder and encoder (30_encoding.md R80 to R85, R101). -/

namespace Sys2Proof

/-- Why a command word is illegal (R85). -/
inductive DecodeError where
  /-- `op` is 0x00 or 0x08 to 0xFF. -/
  | undefinedOp (op : Byte)
  /-- `op` names a command without an operand and `imm8` is not zero (R84). -/
  | nonzeroImm (op imm : Byte)
  deriving DecidableEq, Repr

/-- R80: the operation code, bits 15:8. -/
def opField (w : Word) : Byte := w.extractLsb' 8 8

/-- R80: the immediate operand, bits 7:0. -/
def immField (w : Word) : Byte := w.extractLsb' 0 8

/-- R84: a command without an operand is legal with `imm8` zero only. -/
def noOperand (i : Instr) (op imm : Byte) : Except DecodeError Instr :=
  if imm = 0#8 then .ok i else .error (.nonzeroImm op imm)

/-- R82: the command that `op` and `imm8` stand for. R81: the sample rate is `imm8` zero-extended. -/
def decodeFields (op imm : Byte) : Except DecodeError Instr :=
  match op.toNat with
  | 0x01 => .ok (.init imm.toNat)
  | 0x02 => noOperand .sleep op imm
  | 0x03 => noOperand .wake op imm
  | 0x04 => noOperand .rdvobj op imm
  | 0x05 => noOperand .rdtamb op imm
  | 0x06 => noOperand .rddiec op imm
  | 0x07 => noOperand .rdobjc op imm
  | _ => .error (.undefinedOp op)

/-- The decoder: 16 bits are the whole command (R101). -/
def decode (w : Word) : Except DecodeError Instr := decodeFields (opField w) (immField w)

/-- R82: the operation code of a command. -/
def opcode : Instr → Byte
  | .init _ => 0x01#8
  | .sleep => 0x02#8
  | .wake => 0x03#8
  | .rdvobj => 0x04#8
  | .rdtamb => 0x05#8
  | .rddiec => 0x06#8
  | .rdobjc => 0x07#8

/-- R80, R81, R84: the immediate operand of a command. -/
def immediate : Instr → Byte
  | .init rate => BitVec.ofNat 8 rate
  | _ => 0x00#8

/-- R80: the command word, `op` in the high byte. -/
def encode (i : Instr) : Word := opcode i ++ immediate i

/-- The command word of a row of the opcode table given by its lowest `nbits` bits; the bits above are
zero. A command has one 16-bit word and no byte order of its own (log 24). -/
def tableWord (nbits w : Nat) : Word := BitVec.ofNat 16 (w % 2 ^ nbits)

/-- The command the decoder reads from a row of the opcode table; a row of more than 16 bits is none. -/
def decodeTableWord (nbits w : Nat) : Option Instr :=
  if nbits ≤ 16 then (decode (tableWord nbits w)).toOption else none

end Sys2Proof
end

