-- ==== Sys2Proof/Machine/Binary64.lean ====
section
/-! DEFINITION. The binary64 primitives (00_scope.md R11; 30_encoding.md R97; 42_conversion.md R141 to R145).
Every finite value is an integer multiple of 2^-1074, so each operation is computed exactly on integers and
rational numbers in that unit and rounded once. -/

namespace Sys2Proof.Machine.Binary64

/-! ### The format (R97) -/

/-- Bit 63, the sign. -/
def sign (x : F64) : Bool := x.getLsbD 63

/-- Bits 62:52, the biased exponent. -/
def expo (x : F64) : Nat := (x.extractLsb' 52 11).toNat

/-- Bits 51:0, the fraction. -/
def frac (x : F64) : Nat := (x.extractLsb' 0 52).toNat

def isNaN (x : F64) : Bool := expo x == 2047 && frac x != 0

def isInf (x : F64) : Bool := expo x == 2047 && frac x == 0

def isFinite (x : F64) : Bool := decide (expo x < 2047)

def isZero (x : F64) : Bool := expo x == 0 && frac x == 0

/-- R97: a NaN is quiet when bit 51 is set. -/
def isQuietNaN (x : F64) : Bool := isNaN x && x.getLsbD 51

/-- The number of units 2^-1074 in 1. -/
def one64 : Nat := 2 ^ 1074

/-- The magnitude of a finite value in units of 2^-1074. -/
def mag (x : F64) : Nat := if expo x = 0 then frac x else (2 ^ 52 + frac x) * 2 ^ (expo x - 1)

/-- A finite value in units of 2^-1074. -/
def value (x : F64) : Int := if sign x then -(mag x : Int) else (mag x : Int)

/-- The pattern with the given sign whose bits 62:0 are the number `m`. -/
def pack (neg : Bool) (m : Nat) : F64 := BitVec.ofNat 64 ((if neg then 2 ^ 63 else 0) + m)

/-- The patterns from this one on have biased exponent 2047. -/
def infBits : Nat := 2047 * 2 ^ 52

def infinity (neg : Bool) : F64 := pack neg infBits

def zero (neg : Bool) : F64 := pack neg 0

/-- R144: a quiet NaN; its sign bit is bit 51 of the draw and its fraction bits 50:0 are the draw's. -/
def quietNaN (d : BitVec 52) : F64 := d.extractLsb' 51 1 ++ 0xFFF#12 ++ d.extractLsb' 0 51

/-- The value with the opposite sign. -/
def negate (x : F64) : F64 := x ^^^ (1#64 <<< 63)

/-! ### Rounding (R141) -/

/-- The exponent of the unit in the last place of `num / den`, in powers of two times 2^-1074. It is 0 for
subnormal values and for the smallest normal ones: gradual underflow. -/
def ulpExp (num den : Nat) : Nat :=
  if num / den < 2 ^ 53 then 0 else Nat.log2 (num / den) - 52

/-- The integer nearest `num / den`, ties to the even one. -/
def nearestEven (num den : Nat) : Nat :=
  let q := num / den
  let r := num % den
  if 2 * r < den then q
  else if den < 2 * r then q + 1
  else if q % 2 = 0 then q
  else q + 1

/-- R141: the number `num / den` units of 2^-1074 rounded once to binary64, to nearest, ties to even; a
magnitude too large for binary64 rounds to an infinity (R142). -/
def roundTo (neg : Bool) (num den : Nat) : F64 :=
  let k := ulpExp num den
  let bits := k * 2 ^ 52 + nearestEven num (den * 2 ^ k)
  if infBits ≤ bits then infinity neg else pack neg bits

/-- The largest `r` with `r * r ≤ n`, for `n < 4 ^ k`. -/
def isqrt : Nat → Nat → Nat
  | 0, _ => 0
  | k + 1, n =>
    let r := 2 * isqrt k (n / 4)
    if (r + 1) * (r + 1) ≤ n then r + 1 else r

/-- The square root of `n ≥ 2 ^ 1074` rounded once to binary64: 61 bits of the root and whether anything
lies below them decide the rounding. -/
def roundSqrt (n : Nat) : F64 :=
  let j := Nat.log2 n / 2 - 60
  let r := isqrt 64 (n / 4 ^ j)
  let below := if r * r * 4 ^ j < n then 1 else 0
  roundTo false ((2 * r + below) * 2 ^ j) 2

/-! ### The primitives. `d` is the draw of the NaN, where the result is one. -/

/-- R142. -/
def fadd (d : BitVec 52) (a b : F64) : F64 :=
  if isNaN a || isNaN b then quietNaN d
  else if isInf a then (if isInf b && (sign a != sign b) then quietNaN d else a)
  else if isInf b then b
  else if isZero a && isZero b then zero (sign a && sign b)
  else
    let v := value a + value b
    if v = 0 then zero false else roundTo (decide (v < 0)) v.natAbs 1

/-- R142. -/
def fsub (d : BitVec 52) (a b : F64) : F64 := fadd d a (negate b)

/-- R142. -/
def fmul (d : BitVec 52) (a b : F64) : F64 :=
  let neg := sign a != sign b
  if isNaN a || isNaN b then quietNaN d
  else if (isInf a && isZero b) || (isZero a && isInf b) then quietNaN d
  else if isInf a || isInf b then infinity neg
  else roundTo neg (mag a * mag b) one64

/-- R143. An infinity divided by a finite value is an infinity (PRESUMED, IEEE 754; log 17). -/
def fdiv (d : BitVec 52) (a b : F64) : F64 :=
  let neg := sign a != sign b
  if isNaN a || isNaN b then quietNaN d
  else if (isInf a && isInf b) || (isZero a && isZero b) then quietNaN d
  else if isInf a || isZero b then infinity neg
  else if isInf b then zero neg
  else roundTo neg (mag a * one64) (mag b)

/-- R144. -/
def fsqrt (d : BitVec 52) (a : F64) : F64 :=
  if isNaN a then quietNaN d
  else if isZero a then a
  else if sign a then quietNaN d
  else if isInf a then a
  else roundSqrt (mag a * one64)

/-- R145: a signed integer as binary64. -/
def i2f (n : Int) : F64 := roundTo (decide (n < 0)) (n.natAbs * one64) 1

end Sys2Proof.Machine.Binary64
end

