-- ==== Sys2Proof/Config.lean ====
section
/-! DEFINITION. The parameters of the block (00_scope.md R7), the constant file (10_state.md R28,
30_encoding.md R96) and the free values. A parameter the spec leaves open and a value it does not fix is
an opaque constant: no proof can see what it is. -/

namespace Sys2Proof

/-- The type of the error value a failed transport primitive returns: open (R7 `TransportErr`, D20). The
converter never inspects a value of it (R25). DESIGN CHOICE (log 5): a value is told from another by a
number and by nothing else. -/
structure TransportErr where
  tag : Nat
  deriving DecidableEq, Repr, Inhabited

/-- What the transport answers to one transaction (20_memory.md R54, R55; 70_reset_and_hazards.md R212),
with the draws of R16 that go with it. -/
inductive Answer where
  /-- The transaction succeeds. For a read, `draw` holds the bits of the addressed register that the
  sensor chooses (R60, R61). For a write with bit 15 set, `draw` is what the sensor leaves in CONFIG
  (93_implementation_defined.md U4). -/
  | ok (draw : Word)
  /-- The transaction fails with the error value `err`. For a write, `left` is what CONFIG holds
  afterwards: any value (R55). -/
  | fail (err : TransportErr) (left : Word)
  /-- The transport never answers (R54 "without limit", R212). For a write, `left` is what CONFIG holds:
  any value. -/
  | never (left : Word)
  deriving DecidableEq, Repr, Inhabited

/-- How step 2 of RDOBJC applies the factor 1e-9 (R150). -/
inductive VobjScale where
  | mul
  | div
  deriving DecidableEq, Repr, Inhabited

/-- The constant file (10_state.md R28): 16 read-only binary64 values. -/
structure ConstFile where
  b0 : F64
  b1 : F64
  b2 : F64
  c2 : F64
  tref : F64
  a1 : F64
  a2 : F64
  s0 : F64
  one : F64
  lsbV : F64
  nano : F64
  lsbT : F64
  kIn : F64
  kOut : F64
  ten7 : F64
  giga : F64
  deriving DecidableEq, Repr

namespace Config

/-- First-order sensitivity coefficient A1: a parameter with no value in the source (R7, D19). -/
opaque a1 : F64

/-- Second-order sensitivity coefficient A2: a parameter (R7, D19). -/
opaque a2 : F64

/-- Offset voltage, constant term B0: a parameter (R7, D19). -/
opaque b0 : F64

/-- Offset voltage, first-order term B1: a parameter (R7, D19). -/
opaque b1 : F64

/-- Offset voltage, second-order term B2: a parameter (R7, D19). -/
opaque b2 : F64

/-- Seebeck second-order coefficient C2: a parameter (R7, D19). -/
opaque c2 : F64

/-- A constant file with the given calibration constants and the source's own values: `k[TREF]`, `k[S0]`
and the eight literals, with the patterns of R96. -/
def constFileWith (a1 a2 b0 b1 b2 c2 : F64) : ConstFile where
  b0 := b0
  b1 := b1
  b2 := b2
  c2 := c2
  tref := 0x4072A26666666666#64
  a1 := a1
  a2 := a2
  s0 := 0x401999999999999A#64
  one := 0x3FF0000000000000#64
  lsbV := 0x4063880000000000#64
  nano := 0x3E112E0BE826D695#64
  lsbT := 0x3FA0000000000000#64
  kIn := 0x4071123D70A3D70A#64
  kOut := 0x4071126666666666#64
  ten7 := 0x416312D000000000#64
  giga := 0x41CDCD6500000000#64

/-- The constant file of the block: fixed at all times, written by nothing (R28). -/
def constFile : ConstFile := constFileWith a1 a2 b0 b1 b2 c2

/-- The constant file with the defaults of R7 and R96 for the six open constants. They are not in the
source (93_implementation_defined.md G1) and the machine does not use them: a claim that needs them
names them (log 13). -/
def defaultConstFile : ConstFile :=
  constFileWith 0x3F5CAC083126E979#64 0xBEF19858D1D346E4#64 0xBEFED4009DB4B14D#64
    0xBEA3204341733CE4#64 0x3E33E2BD24654675#64 0x402ACCCCCCCCCCCD#64

/-- `VOBJ_SCALE` (R150, D13): open. -/
opaque vobjScale : VobjScale

/-- `POW4` (R151, D14): a total function from binary64 to binary64 of which only this is known, that it
depends on its operand alone. -/
opaque pow4 : F64 → F64

/-- `CONFIG_RESET` (R7, 10_state.md R38): what CONFIG holds after the sensor's own power-up; open. -/
opaque configReset : Word

/-- The identifier the sensor returns for MANID (R35, R62): a property of the sensor. -/
opaque sensorManid : Word

/-- The identifier the sensor returns for DEVID (R35, R62): a property of the sensor. -/
opaque sensorDevid : Word

/-- `DEV_ADDR` (R7, R50, D23): the bus address handed to the transport, default 0x40, not visible in any
rule. -/
opaque devAddr : Nat

/-- `MANID_EXPECT` (R7, R98). -/
def manidExpect : Word := 0x5449#16

/-- `DEVID_EXPECT` (R7, R98). -/
def devidExpect : Word := 0x0067#16

/-- FREE VALUE: the answer to the transaction with this number, where the state lists no answer
(R54, R60; log 2). -/
opaque freeAnswer : Nat → Answer

/-- FREE VALUE: the sign bit (bit 51) and the fraction bits 50:0 of the quiet NaN that a floating-point
operation produces (R144, D18; log 18). The first argument is the state's transaction number, the second
the number of the operation inside the command, so that every operation has a draw of its own. -/
opaque nanDraw : Nat → Nat → BitVec 52

end Config
end Sys2Proof
end

