-- ==== Sys2Proof/Machine/State.lean ====
section
/-! DEFINITION. The state of the whole modelled system (10_state.md R20), the reasons a step can stop, and
the state after reset (10_state.md R38, 70_reset_and_hazards.md R200). -/

namespace Sys2Proof.Machine

/-- PSTATE (R26); its codes are `PState.code`. The code 3 is never written, so it has no name. -/
inductive PState where
  | uninitialized
  | sleeping
  | active
  deriving DecidableEq, Repr

/-- STATUS (R22); its codes are `Status.code`. The codes 0x04 to 0xFF are never written. -/
inductive Status where
  | ok
  | invalidArgument
  | transportError
  | illegalCommand
  deriving DecidableEq, Repr

/-- RKIND (R23); its codes are `RKind.code`. -/
inductive RKind where
  | none
  | bool
  | int16
  | f64
  deriving DecidableEq, Repr

/-- The five sensor registers (20_memory.md R51); their addresses are `Reg.addr`. -/
inductive Reg where
  | vobj
  | tamb
  | config
  | manid
  | devid
  deriving DecidableEq, Repr

/-- The sensor's registers (group C of R20; 20_memory.md R51). -/
structure Sensor where
  /-- Thermopile voltage: the word the register last showed on the bus. Every read draws it anew (R60). -/
  vobj : Word
  /-- Die temperature: the word the register last showed on the bus. Every read draws it anew (R60). -/
  tamb : Word
  /-- CONFIG (R34, R86). Bits 14:8 keep what was last written; the others are drawn at each read (R61). -/
  config : Word
  /-- Manufacturer identifier, fixed for one sensor (R35, R62). -/
  manid : Word
  /-- Device identifier, fixed for one sensor (R35, R62). -/
  devid : Word
  deriving DecidableEq, Repr

/-- What the converter asks of the transport (00_scope.md R6). The two bytes of a write stand in the
order they travel, high byte first (20_memory.md R53, R55). -/
inductive Request where
  | read (addr : Addr)
  | write (addr : Addr) (first second : Byte)
  deriving DecidableEq, Repr

/-- How a transaction ended (R54, R55). -/
inductive Response where
  /-- A read succeeded: the two bytes, in the order received (R54). -/
  | data (first second : Byte)
  /-- A write succeeded. -/
  | done
  /-- The transport reported this error. -/
  | failed (err : TransportErr)
  /-- The transport has not answered and never will (R212). -/
  | pending
  deriving DecidableEq, Repr

/-- One transaction on the bus. -/
structure Transfer where
  req : Request
  res : Response
  deriving DecidableEq, Repr

/-- The state. The first five fields are group A of R20, `sensor` is group C; group B, the constant file,
is `Config.constFile` (R28 lets a model treat it as configuration). The last five are the model's own
view of the host and the transport. -/
structure State where
  /-- PSTATE (R26). -/
  pstate : PState
  /-- STATUS (R22). -/
  status : Status
  /-- RKIND (R23). -/
  rkind : RKind
  /-- RESULT, 64 bits, or no value (R23, R24). -/
  result : Option F64
  /-- ERRINFO, or no value (R25). -/
  errinfo : Option TransportErr
  /-- The sensor behind the transport. -/
  sensor : Sensor
  /-- The converter waits in a transaction that is never answered (R54, R212). -/
  waiting : Bool
  /-- MODEL's own: the command words the host has still to issue, the next one first (R214; log 1). -/
  cmds : List Word
  /-- MODEL's own: the transport's coming answers, the next one first (R54, R60; log 2). -/
  answers : List Answer
  /-- MODEL's own: how many transactions have begun; it numbers the free values (log 3). -/
  draws : Nat
  /-- MODEL's own: the transactions made, the oldest first (R65; log 4). -/
  bus : List Transfer
  deriving DecidableEq, Repr

/-- Why the model stops. The converter's own three faults (60_exceptions.md R170) are no stops: they are
next states, written by `raise`. -/
inductive Fault where
  /-- Raised by `step` on a state whose `waiting` is set: the converter has no enabled step
  (93_implementation_defined.md U14). Safe: the hardware waits for good. -/
  | transportNeverAnswers
  /-- Raised by the host's read of RESULT when RKIND is none (R23 "a model faults the read", U13). Safe. -/
  | resultHoldsNoValue
  /-- Raised by the host's read of ERRINFO when STATUS is not TransportError (R25, U13). Safe. -/
  | errinfoHoldsNoValue
  deriving DecidableEq, Repr

/-- What the model gives no meaning to. -/
inductive Refusal where
  /-- An arm of `exec` without a meaning. No arm answers it. Safe. -/
  | notModelled (mnemonic : String)
  /-- Raised by `deviceRead` and `deviceWrite` for an address outside the map (20_memory.md R52, U16). No
  command makes such an access. Safe. -/
  | unmappedRegister (addr : Addr)
  /-- Raised by `deviceWrite` for a register that R51 marks "read". No command makes such a write. Safe. -/
  | readOnlyRegister (addr : Addr)
  deriving DecidableEq, Repr

/-- The machine right after reset (R38, R200), with the sensor's own state unspecified by it (R39, R201):
CONFIG, MANID and DEVID are the open parameters. DESIGN CHOICE (log 12): VOBJ and TAMB hold zero, which no
read ever returns. The host has issued no command and the transport's answers are free (log 1, log 2). -/
def State.reset : State where
  pstate := .uninitialized
  status := .ok
  rkind := .none
  result := none
  errinfo := none
  sensor :=
    { vobj := 0x0000#16
      tamb := 0x0000#16
      config := Config.configReset
      manid := Config.sensorManid
      devid := Config.sensorDevid }
  waiting := false
  cmds := []
  answers := []
  draws := 0
  bus := []

end Sys2Proof.Machine
end

