-- ==== Sys2Proof/Machine/Flags.lean ====
section
/-! DEFINITION. The fields of CONFIG (30_encoding.md R86 to R93) and the codes of the converter's registers
(10_state.md R22, R23, R26). The converter has no condition codes (R32) and no IEEE status flags (R33). -/

namespace Sys2Proof.Machine

/-- R22: the code the host reads from STATUS. -/
def Status.code : Status → Byte
  | .ok => 0x00#8
  | .invalidArgument => 0x01#8
  | .transportError => 0x02#8
  | .illegalCommand => 0x03#8

/-- R23: the code the host reads from RKIND. -/
def RKind.code : RKind → BitVec 2
  | .none => 0#2
  | .bool => 1#2
  | .int16 => 2#2
  | .f64 => 3#2

/-- R26: the code the host reads from PSTATE. -/
def PState.code : PState → BitVec 2
  | .uninitialized => 0#2
  | .sleeping => 1#2
  | .active => 2#2

/-- R86, R88: the mask of the mode-on field, bits 14:12. -/
def modeMask : Word := 0x7000#16

/-- R86, R90: the mask of data-ready-enable, bit 8. -/
def enableMask : Word := 0x0100#16

/-- R61: the bits of CONFIG that keep what was last written, 14:8. -/
def configKept : Word := 0x7F00#16

/-- R87: the reset bit of a CONFIG word, bit 15. -/
def rstBit (c : Word) : Bool := c.getLsbD 15

/-- R88: the mode-on field of a CONFIG word, bits 14:12. -/
def modField (c : Word) : BitVec 3 := c.extractLsb' 12 3

/-- R89: the sample-rate field of a CONFIG word, bits 11:9. -/
def crField (c : Word) : BitVec 3 := c.extractLsb' 9 3

/-- R90: data-ready-enable, bit 8. -/
def enBit (c : Word) : Bool := c.getLsbD 8

/-- R91: the data-ready flag, bit 7. -/
def drdyBit (c : Word) : Bool := c.getLsbD 7

/-- R92: the sample-rate mask, defined on the five legal rates and on no other argument. -/
def crmask : Nat → Option Word
  | 1 => some 0x0000#16
  | 2 => some 0x0200#16
  | 4 => some 0x0400#16
  | 8 => some 0x0600#16
  | 16 => some 0x0800#16
  | _ => none

/-- R93: the configuration word INIT writes, from the sample-rate mask. -/
def configWord (mask : Word) : Word := modeMask ||| enableMask ||| mask

/-- R115: clear the mode-on field, keep the other 13 bits. -/
def clearMode (c : Word) : Word := c &&& ~~~modeMask

/-- R118: set all three bits of the mode-on field, keep the other 13 bits. -/
def setMode (c : Word) : Word := c ||| modeMask

end Sys2Proof.Machine
end

