-- ==== Sys2Proof/Machine/Operands.lean ====
section
/-! DEFINITION. The integer conditioning of register words (00_scope.md R10; 41_raw_access.md R134, R135)
and the formats of RESULT (10_state.md R24). -/

namespace Sys2Proof.Machine

/-- R10: the word as a two's complement integer. -/
def s16 (w : Word) : Int := w.toInt

/-- R134: the arithmetic right shift by two places. -/
def asr2 (w : Word) : Word := w.sshiftRight 2

/-- R24: an int16 result, the copies of bit 15 above it. -/
def resultOfInt16 (w : Word) : F64 := w.signExtend 64

/-- R24: a bool result, 1 for true and 0 for false, the bits above it zero. -/
def resultOfBool (b : Bool) : F64 := if b then 1#64 else 0#64

/-- R113: the identity check of INIT, on all 16 bits of both words. -/
def identityOk (manid devid : Word) : Bool :=
  manid == Config.manidExpect && devid == Config.devidExpect

/-- R53: the byte of a word that travels first. -/
def firstByte (v : Word) : Byte := v.extractLsb' 8 8

/-- R53: the byte of a word that travels second. -/
def secondByte (v : Word) : Byte := v.extractLsb' 0 8

/-- R54: the word a read makes of the two bytes received. -/
def wordOfBytes (first second : Byte) : Word := first ++ second

end Sys2Proof.Machine
end

