-- ==== Sys2Proof/Machine/Ops.lean ====
section
/-! DEFINITION. The shared operations: the sensor's registers (20_memory.md), the two transport primitives
(R54, R55), the end of a command (40_config_power.md R110) and the faults of the converter
(60_exceptions.md R176). -/

namespace Sys2Proof.Machine

/-- The three outcomes of a step of this machine. -/
abbrev Outcome := Host.Outcome State Fault Refusal

/-! ### The sensor's registers -/

/-- R51: the address of a register. -/
def Reg.addr : Reg → Addr
  | .vobj => 0x00#8
  | .tamb => 0x01#8
  | .config => 0x02#8
  | .manid => 0xFE#8
  | .devid => 0xFF#8

/-- R51, R52: the register at an address; addresses 0x03 to 0xFD name none. -/
def regAt (a : Addr) : Option Reg :=
  match a.toNat with
  | 0x00 => some .vobj
  | 0x01 => some .tamb
  | 0x02 => some .config
  | 0xFE => some .manid
  | 0xFF => some .devid
  | _ => none

/-- The word a register holds. -/
def Sensor.get (v : Sensor) : Reg → Word
  | .vobj => v.vobj
  | .tamb => v.tamb
  | .config => v.config
  | .manid => v.manid
  | .devid => v.devid

/-- R61: a CONFIG word with bits 14:8 of `c` and the other bits drawn from `draw`. -/
def mergeConfig (c draw : Word) : Word := (c &&& configKept) ||| (draw &&& ~~~configKept)

/-- The sensor's own move before a successful read (R66): it puts the drawn bits into the addressed
register. VOBJ and TAMB are drawn whole (R60), CONFIG but for bits 14:8 (R61), MANID and DEVID not at all
(R62). The read itself changes nothing (R59). -/
def Sensor.move (v : Sensor) (r : Reg) (draw : Word) : Sensor :=
  match r with
  | .vobj => { v with vobj := draw }
  | .tamb => { v with tamb := draw }
  | .config => { v with config := mergeConfig v.config draw }
  | .manid => v
  | .devid => v

/-- R55, R61: a successful write of `w` to CONFIG. Where `w` sets the reset bit, what the sensor then
holds is not in the source: any value, `draw` (93_implementation_defined.md U4; log 8). -/
def Sensor.write (v : Sensor) (w draw : Word) : Sensor :=
  { v with config := if rstBit w then draw else w }

/-- R55, U10: after a failed write CONFIG holds any value, `left`. -/
def Sensor.spoil (v : Sensor) (left : Word) : Sensor := { v with config := left }

/-! ### Faults and completion -/

/-- The converter's three synchronous faults (R170). -/
inductive CmdFault where
  | invalidArgument
  | transportError (err : TransportErr)
  | illegalCommand
  deriving DecidableEq, Repr

/-- R170, R176: the code a fault writes to STATUS. -/
def CmdFault.status : CmdFault → Status
  | .invalidArgument => .invalidArgument
  | .transportError _ => .transportError
  | .illegalCommand => .illegalCommand

/-- R170, R176: what a fault writes to ERRINFO. -/
def CmdFault.info : CmdFault → Option TransportErr
  | .invalidArgument => none
  | .transportError err => some err
  | .illegalCommand => none

/-- R176: taking a fault, the one operation for all three. It writes STATUS, RKIND, RESULT and ERRINFO and
gives control back to the host. There is no handler to go to and no return from a fault (R182). -/
def raise (f : CmdFault) (s : State) : State :=
  { s with status := f.status, rkind := .none, result := none, errinfo := f.info }

/-- R110: the end of a command that completes without fault, with a result of the named kind. -/
def complete (kind : RKind) (value : Option F64) (s : State) : State :=
  { s with status := .ok, rkind := kind, result := value, errinfo := none }

/-- R24: SLEEP and WAKE return no value. -/
def returnNone (s : State) : State := complete .none none s

/-- R24: the command returns `b` as bool. -/
def returnBool (b : Bool) (s : State) : State := complete .bool (some (resultOfBool b)) s

/-- R24: the command returns `w` as int16. -/
def returnInt16 (w : Word) (s : State) : State := complete .int16 (some (resultOfInt16 w)) s

/-- R24: the command returns `x` as f64. -/
def returnF64 (x : F64) (s : State) : State := complete .f64 (some x) s

/-- R26, R27: the power state, after a successful CONFIG write. -/
def setPState (p : PState) (s : State) : State := { s with pstate := p }

/-! ### The transport -/

/-- The answer to the transaction `k` transactions from now: the listed one, else a free value (log 2). -/
def answerAt (s : State) (k : Nat) : Answer :=
  match s.answers[k]? with
  | some a => a
  | none => Config.freeAnswer (s.draws + k)

/-- One transaction takes place: its answer is used up and the record grows by it (R65). -/
def transact (req : Request) (res : Response) (sensor : Sensor) (s : State) : State :=
  { s with
    sensor := sensor
    answers := s.answers.tail
    draws := s.draws + 1
    bus := s.bus ++ [{ req := req, res := res }] }

/-- R212, U14: the transport never answers, and nothing in the block lifts that wait. -/
def hang (s : State) : State := { s with waiting := true }

/-- `MemRead(addr, 2)` (R54): on success the command goes on with the word made of the two bytes received;
on failure it raises TransportError with the transport's error value (R172). -/
def memRead (r : Reg) (s : State) (next : Word → State → State) : State :=
  match answerAt s 0 with
  | .ok draw =>
    let v := s.sensor.move r draw
    let first := firstByte (v.get r)
    let second := secondByte (v.get r)
    next (wordOfBytes first second) (transact (.read r.addr) (.data first second) v s)
  | .fail err _ => raise (.transportError err) (transact (.read r.addr) (.failed err) s.sensor s)
  | .never _ => hang (transact (.read r.addr) .pending s.sensor s)

/-- R55: the request of a CONFIG write, the only write there is: high byte first. -/
def configWrite (w : Word) : Request := .write Reg.config.addr (firstByte w) (secondByte w)

/-- `MemWrite(0x02, 2, w)` (R55): the logical word, never a swapped one (R71). -/
def memWrite (w : Word) (s : State) (next : State → State) : State :=
  match answerAt s 0 with
  | .ok draw => next (transact (configWrite w) .done (s.sensor.write w draw) s)
  | .fail err left =>
    raise (.transportError err) (transact (configWrite w) (.failed err) (s.sensor.spoil left) s)
  | .never left => hang (transact (configWrite w) .pending (s.sensor.spoil left) s)

/-- A read of any 8-bit address, as the device takes it (R52): an address outside the map is refused. No
command makes such an access (R72). -/
def deviceRead (a : Addr) (s : State) (next : Word → State → State) : Outcome :=
  match regAt a with
  | some r => .next (memRead r s next)
  | none => .refused (.unmappedRegister a)

/-- A write to any 8-bit address, as the device takes it (R51, R52): only CONFIG can be written. -/
def deviceWrite (a : Addr) (w : Word) (s : State) (next : State → State) : Outcome :=
  match regAt a with
  | some .config => .next (memWrite w s next)
  | some _ => .refused (.readOnlyRegister a)
  | none => .refused (.unmappedRegister a)

/-! ### The command port -/

/-- R30, R214: the next command word the host issues, and the state in which the command runs. -/
def fetch (s : State) : Option (Word × State) :=
  match s.cmds with
  | [] => none
  | w :: rest => some (w, { s with cmds := rest })

/-- The host issues the word `w` before the ones it has still to issue, to a converter that is idle. -/
def issueFirst (w : Word) (s : State) : State := { s with cmds := w :: s.cmds, waiting := false }

end Sys2Proof.Machine
end

