-- ==== Sys2Proof/Machine/Conversion.lean ====
section
/-! DEFINITION. The temperature conversion commands RDDIEC, RDOBJC (42_conversion.md R140, R146 to R156).
The formulas take the constant file and the open parameters as arguments; the commands supply those of
`Config`. `nan i` is the draw for the NaN of the command's floating-point operation number `i`. -/

namespace Sys2Proof.Machine

open Binary64

/-- R146: the raw die count `m` of a TAMB word. -/
def dieCount (wt : Word) : Int := s16 (asr2 wt)

/-- R146, R148 step 3: the die temperature in °C. -/
def dieTempC (k : ConstFile) (nan : Nat → BitVec 52) (m : Int) : F64 := fmul (nan 0) (i2f m) k.lsbT

/-- R148 step 2 and R150: the thermopile voltage in volts. -/
def vobjVolts (k : ConstFile) (scale : VobjScale) (nan : Nat → BitVec 52) (n : Int) : F64 :=
  let v1 := fmul (nan 1) (i2f n) k.lsbV
  match scale with
  | .mul => fmul (nan 2) v1 k.nano
  | .div => fdiv (nan 2) v1 k.giga

/-- R148 step 3: the die temperature in kelvin. -/
def tdieKelvin (k : ConstFile) (nan : Nat → BitVec 52) (m : Int) : F64 :=
  fadd (nan 3) (dieTempC k nan m) k.kIn

/-- R148 step 4: `Tdie_ref`. -/
def tdieRef (k : ConstFile) (nan : Nat → BitVec 52) (tdie : F64) : F64 := fsub (nan 4) tdie k.tref

/-- R148 step 5, the polynomial `p`: left to right, the square before the coefficient (R149 a, b, c). -/
def sensPoly (k : ConstFile) (nan : Nat → BitVec 52) (x : F64) : F64 :=
  let x2 := fmul (nan 5) x x
  fadd (nan 9) (fadd (nan 7) k.one (fmul (nan 6) k.a1 x)) (fmul (nan 8) k.a2 x2)

/-- R148 step 5: the sensitivity `S`, with two separate divisions (R149 d). -/
def sensitivity (k : ConstFile) (nan : Nat → BitVec 52) (x : F64) : F64 :=
  let s1 := fmul (nan 10) k.s0 (sensPoly k nan x)
  let s2 := fdiv (nan 11) s1 k.ten7
  fdiv (nan 12) s2 k.ten7

/-- R148 step 6: the offset voltage `Vos`. -/
def offsetVolts (k : ConstFile) (nan : Nat → BitVec 52) (x : F64) : F64 :=
  let x2 := fmul (nan 5) x x
  fadd (nan 16) (fadd (nan 14) k.b0 (fmul (nan 13) k.b1 x)) (fmul (nan 15) k.b2 x2)

/-- R148 step 7: `fVobj` (R149 e). -/
def fVobj (k : ConstFile) (nan : Nat → BitVec 52) (vobj vos : F64) : F64 :=
  let d := fsub (nan 17) vobj vos
  fadd (nan 20) d (fmul (nan 19) k.c2 (fmul (nan 18) d d))

/-- R148 step 8: the radicand `q`; the quotient before the sum (R149 f), the fourth power by `POW4` (R151). -/
def radicand (pow4 : F64 → F64) (nan : Nat → BitVec 52) (tdie f s : F64) : F64 :=
  let r := fdiv (nan 21) f s
  fadd (nan 22) (pow4 tdie) r

/-- R148 steps 8 and 9: two square roots, each rounded, then the way back to °C. -/
def rootTempC (k : ConstFile) (nan : Nat → BitVec 52) (q : F64) : F64 :=
  let tobj := fsqrt (nan 24) (fsqrt (nan 23) q)
  fsub (nan 25) tobj k.kOut

/-- R148: the object temperature in °C of the die count `m` and the voltage count `n`. -/
def objTempC (k : ConstFile) (scale : VobjScale) (pow4 : F64 → F64) (nan : Nat → BitVec 52)
    (m n : Int) : F64 :=
  let vobj := vobjVolts k scale nan n
  let tdie := tdieKelvin k nan m
  let x := tdieRef k nan tdie
  let s := sensitivity k nan x
  let vos := offsetVolts k nan x
  let f := fVobj k nan vobj vos
  rootTempC k nan (radicand pow4 nan tdie f s)

/-- R151: the default of `POW4`, two squarings. The machine does not use it; a claim that needs it names it
(log 15). -/
def pow4Squares (nan : Nat → BitVec 52) (x : F64) : F64 :=
  let x2 := fmul (nan 26) x x
  fmul (nan 27) x2 x2

/-- R146: RDDIEC. -/
def execRddiec (s : State) : Outcome :=
  .next <|
    memRead .tamb s fun w s0 =>
    returnF64 (dieTempC Config.constFile (Config.nanDraw s0.draws) (dieCount w)) s0

/-- R148: RDOBJC. TAMB is read first, then VOBJ (R72). -/
def execRdobjc (s : State) : Outcome :=
  .next <|
    memRead .tamb s fun wt s0 =>
    memRead .vobj s0 fun wv s1 =>
    returnF64
      (objTempC Config.constFile Config.vobjScale Config.pow4 (Config.nanDraw s1.draws)
        (dieCount wt) (s16 wv)) s1

end Sys2Proof.Machine
end

