-- ==== Sys2Proof/Machine/Power.lean ====
section
/-! DEFINITION. The configuration and power commands INIT, SLEEP, WAKE (40_config_power.md R110 to R123). -/

namespace Sys2Proof.Machine

/-- R111: INIT. The argument check comes before any transaction (R112); both identity registers are always
read (R113); a mismatch is no fault (R174). -/
def execInit (rate : Nat) (s : State) : Outcome :=
  .next <|
    match crmask rate with
    | none => raise .invalidArgument s
    | some mask =>
      memWrite (configWord mask) s fun s0 =>
      memRead .manid (setPState .active s0) fun mid s1 =>
      memRead .devid s1 fun did s2 =>
      returnBool (identityOk mid did) s2

/-- R115: SLEEP. The write takes place even when it changes nothing (R116). -/
def execSleep (s : State) : Outcome :=
  .next <|
    memRead .config s fun c s0 =>
    memWrite (clearMode c) s0 fun s1 =>
    returnNone (setPState .sleeping s1)

/-- R118: WAKE. -/
def execWake (s : State) : Outcome :=
  .next <|
    memRead .config s fun c s0 =>
    memWrite (setMode c) s0 fun s1 =>
    returnNone (setPState .active s1)

end Sys2Proof.Machine
end

