-- ==== Sys2Proof/Machine/Raw.lean ====
section
/-! DEFINITION. The raw register access commands RDVOBJ, RDTAMB (41_raw_access.md R130 to R134). -/

namespace Sys2Proof.Machine

/-- R131: RDVOBJ. -/
def execRdvobj (s : State) : Outcome :=
  .next <| memRead .vobj s fun w s0 => returnInt16 w s0

/-- R133: RDTAMB. -/
def execRdtamb (s : State) : Outcome :=
  .next <| memRead .tamb s fun w s0 => returnInt16 (asr2 w) s0

end Sys2Proof.Machine
end

