-- ==== Sys2Proof/Machine/Dispatch.lean ====
section
/-! DEFINITION. One arm per command (30_encoding.md R82), each one call of its meaning. -/

namespace Sys2Proof.Machine

def exec (i : Instr) (s : State) : Host.Outcome State Fault Refusal :=
  match i with
  | .init rate => Sys2Proof.Machine.execInit rate s
  | .sleep => Sys2Proof.Machine.execSleep s
  | .wake => Sys2Proof.Machine.execWake s
  | .rdvobj => Sys2Proof.Machine.execRdvobj s
  | .rdtamb => Sys2Proof.Machine.execRdtamb s
  | .rddiec => Sys2Proof.Machine.execRddiec s
  | .rdobjc => Sys2Proof.Machine.execRdobjc s

end Sys2Proof.Machine
end

