-- ==== Sys2Proof/Machine/Step.lean ====
section
/-! DEFINITION. One step: the next command of the host, from its decoding to its end (10_state.md R30). -/

namespace Sys2Proof.Machine

/-- A command word is decoded and runs; an illegal word raises IllegalCommand at decode, before any
transaction (60_exceptions.md R173). -/
def issue (w : Word) (s : State) : Host.Outcome State Fault Refusal :=
  match decode w with
  | .ok i => exec i s
  | .error _ => .next (raise .illegalCommand s)

/-- One command from its issue to its end. A converter that waits for a transport that never answers has no
enabled step (93_implementation_defined.md U14). With no command to issue the converter stays idle
(70_reset_and_hazards.md R200; log 1). -/
def step (s : State) : Host.Outcome State Fault Refusal :=
  if s.waiting then .fault .transportNeverAnswers
  else
    match fetch s with
    | some (w, t) => issue w t
    | none => .next s

/-- The state in which the host issues the word of an opcode-table row next. -/
def State.withFetchWord (s : State) (nbits w : Nat) : State := issueFirst (tableWord nbits w) s

end Sys2Proof.Machine
end

