-- ==== Sys2Proof/Machine/Assembler.lean ====
section
/-! DEFINITION. The assembly of one line (30_encoding.md R99, R100): a mnemonic in capitals, for INIT one
unsigned operand in decimal or 0x hexadecimal from 0 to 255, and a comment from a semicolon to the end of
the line. DESIGN CHOICE (log 25): spaces and tabs separate the words of a line. -/

namespace Sys2Proof.Machine

/-- What a line holds. -/
inductive AsmLine where
  /-- Nothing but blanks and a comment. -/
  | blank
  | command (i : Instr)
  /-- Not a line of R99. -/
  | bad
  deriving DecidableEq, Repr

/-- The line up to its comment. -/
def beforeComment (line : List Char) : List Char := line.takeWhile (· != ';')

/-- The words of a line; `cur` is the word being read. -/
def wordsOf : List Char → List Char → List (List Char)
  | [], cur => if cur.isEmpty then [] else [cur]
  | c :: cs, cur =>
    if c == ' ' || c == '\t' then
      if cur.isEmpty then wordsOf cs [] else cur :: wordsOf cs []
    else wordsOf cs (cur ++ [c])

/-- A decimal digit. -/
def decimalDigit (c : Char) : Option Nat :=
  if '0' ≤ c ∧ c ≤ '9' then some (c.toNat - '0'.toNat) else none

/-- A hexadecimal digit, in capitals or not. -/
def hexDigit (c : Char) : Option Nat :=
  if '0' ≤ c ∧ c ≤ '9' then some (c.toNat - '0'.toNat)
  else if 'a' ≤ c ∧ c ≤ 'f' then some (c.toNat - 'a'.toNat + 10)
  else if 'A' ≤ c ∧ c ≤ 'F' then some (c.toNat - 'A'.toNat + 10)
  else none

/-- The number written by digits to a base, after the number `acc`. -/
def digitsValue (base : Nat) (digit : Char → Option Nat) : List Char → Nat → Option Nat
  | [], acc => some acc
  | c :: cs, acc =>
    match digit c with
    | some d => digitsValue base digit cs (acc * base + d)
    | none => none

/-- An unsigned integer in decimal or 0x hexadecimal. -/
def numberOf : List Char → Option Nat
  | [] => none
  | ['0', 'x'] => none
  | '0' :: 'x' :: cs => digitsValue 16 hexDigit cs 0
  | cs => digitsValue 10 decimalDigit cs 0

/-- R99: the command of a mnemonic with no operand. R100: `INIT` alone is `INIT 16`. -/
def commandOf (mnemonic : List Char) : Option Instr :=
  if mnemonic = ['I', 'N', 'I', 'T'] then some (.init 16)
  else if mnemonic = ['S', 'L', 'E', 'E', 'P'] then some .sleep
  else if mnemonic = ['W', 'A', 'K', 'E'] then some .wake
  else if mnemonic = ['R', 'D', 'V', 'O', 'B', 'J'] then some .rdvobj
  else if mnemonic = ['R', 'D', 'T', 'A', 'M', 'B'] then some .rdtamb
  else if mnemonic = ['R', 'D', 'D', 'I', 'E', 'C'] then some .rddiec
  else if mnemonic = ['R', 'D', 'O', 'B', 'J', 'C'] then some .rdobjc
  else none

/-- R99: the operand of INIT is 0 to 255. -/
def initWith (operand : List Char) : AsmLine :=
  match numberOf operand with
  | some n => if n < 256 then .command (.init n) else .bad
  | none => .bad

/-- R99: one line. -/
def assembleLine (line : List Char) : AsmLine :=
  match wordsOf (beforeComment line) [] with
  | [] => .blank
  | [m] => match commandOf m with
    | some i => .command i
    | none => .bad
  | [m, operand] => if m = ['I', 'N', 'I', 'T'] then initWith operand else .bad
  | _ => .bad

/-- The command word of a line that holds a command. -/
def assembleWord (line : List Char) : Option Word :=
  match assembleLine line with
  | .command i => some (encode i)
  | _ => none

end Sys2Proof.Machine
end

