-- ==== Sys2Proof/Machine/HostPort.lean ====
section
/-! DEFINITION. What the host reads of the converter between commands (10_state.md R22 to R26,
70_reset_and_hazards.md R214). A host read changes nothing. -/

namespace Sys2Proof.Machine

/-- R22: STATUS as the host reads it. -/
def readStatus (s : State) : Byte := s.status.code

/-- R23: RKIND as the host reads it. -/
def readRkind (s : State) : BitVec 2 := s.rkind.code

/-- R26: PSTATE as the host reads it. -/
def readPstate (s : State) : BitVec 2 := s.pstate.code

/-- R23: RESULT; with RKIND none it holds no value and a model faults the read (U13). -/
def readResult (s : State) : Except Fault F64 :=
  match s.rkind, s.result with
  | .none, _ => .error .resultHoldsNoValue
  | _, some v => .ok v
  | _, none => .error .resultHoldsNoValue

/-- R25: ERRINFO; it holds a value only when STATUS is TransportError (U13). -/
def readErrinfo (s : State) : Except Fault TransportErr :=
  match s.status, s.errinfo with
  | .transportError, some e => .ok e
  | _, _ => .error .errinfoHoldsNoValue

/-- R214: what the host observes of one command. -/
structure Observation where
  status : Status
  rkind : RKind
  result : Option F64
  errinfo : Option TransportErr
  deriving DecidableEq, Repr

/-- R214: the triple (STATUS, RKIND, RESULT or ERRINFO). -/
def observe (s : State) : Observation :=
  { status := s.status, rkind := s.rkind, result := s.result, errinfo := s.errinfo }

/-- R214: the run has ended, the last command having written its STATUS. -/
def runEnded (s : State) : Bool := s.cmds.isEmpty && !s.waiting

end Sys2Proof.Machine
end

