-- ==== Sys2Proof/Safety.lean ====
section
/-! DEFINITION. The terms the claims use: the opcode table (30_encoding.md R82), the transactions of each
command (20_memory.md R72), the reference sensor (R61), and what a good state and a good record are. -/

namespace Sys2Proof.Machine

/-! ### The opcode table -/

/-- A row of spec/opcode_table.json: a word fits the row when it agrees with `value` on `mask`. -/
structure OpcodeRow where
  mask : Word
  value : Word
  deriving DecidableEq, Repr

/-- The row of a command. -/
def opcodeRow : Instr → OpcodeRow
  | .init _ => { mask := 0xFF00#16, value := 0x0100#16 }
  | .sleep => { mask := 0xFFFF#16, value := 0x0200#16 }
  | .wake => { mask := 0xFFFF#16, value := 0x0300#16 }
  | .rdvobj => { mask := 0xFFFF#16, value := 0x0400#16 }
  | .rdtamb => { mask := 0xFFFF#16, value := 0x0500#16 }
  | .rddiec => { mask := 0xFFFF#16, value := 0x0600#16 }
  | .rdobjc => { mask := 0xFFFF#16, value := 0x0700#16 }

/-- A word fits a row. -/
def OpcodeRow.fits (row : OpcodeRow) (w : Word) : Bool := w &&& row.mask == row.value

/-- All rows of the table. -/
def opcodeTable : List OpcodeRow :=
  [.init 0, .sleep, .wake, .rdvobj, .rdtamb, .rddiec, .rdobjc].map opcodeRow

/-- R173: the word matches some row of the table. -/
def inOpcodeTable (w : Word) : Bool := opcodeTable.any fun row => row.fits w

/-! ### The transactions of a command (R72) -/

/-- The direction and the register of a transaction. -/
inductive Access where
  | r (reg : Reg)
  | w (reg : Reg)
  deriving DecidableEq, Repr

/-- R72: which command reaches which register, in order. -/
def transactionsOf : Instr → List Access
  | .init _ => [.w .config, .r .manid, .r .devid]
  | .sleep => [.r .config, .w .config]
  | .wake => [.r .config, .w .config]
  | .rdvobj => [.r .vobj]
  | .rdtamb => [.r .tamb]
  | .rddiec => [.r .tamb]
  | .rdobjc => [.r .tamb, .r .vobj]

/-- The access a request makes; an address outside the map makes none. -/
def Request.access : Request → Option Access
  | .read a => (regAt a).map .r
  | .write a _ _ => (regAt a).map .w

/-- The transaction succeeded (R54, R55). -/
def Transfer.succeeded (t : Transfer) : Bool :=
  match t.res with
  | .data _ _ => true
  | .done => true
  | .failed _ => false
  | .pending => false

/-- The transport has answered, with success or failure. -/
def Transfer.answered (t : Transfer) : Bool := t.res != .pending

/-- R65, R72, R172: the transactions are the listed ones in order, up to the first that does not succeed and
none after it. -/
def followsTable : List Access → List Transfer → Bool
  | _, [] => true
  | [], _ :: _ => false
  | a :: as, t :: ts =>
    t.req.access == some a && (if t.succeeded then followsTable as ts else ts.isEmpty)

/-- The record of a successful read of `w` from `r` (R53, R54). -/
def readTransfer (r : Reg) (w : Word) : Transfer :=
  { req := .read r.addr, res := .data (firstByte w) (secondByte w) }

/-- The record of a failed read. -/
def failedRead (r : Reg) (e : TransportErr) : Transfer := { req := .read r.addr, res := .failed e }

/-- The record of a successful CONFIG write of `w`. -/
def writeTransfer (w : Word) : Transfer := { req := configWrite w, res := .done }

/-- The record of a failed CONFIG write of `w`. -/
def failedWrite (w : Word) (e : TransportErr) : Transfer := { req := configWrite w, res := .failed e }

/-- The state `s` after the transactions `ts`, with the sensor's registers as `v`: one answer is used up for
each transaction, and nothing else changes. -/
def afterBus (ts : List Transfer) (v : Sensor) (s : State) : State :=
  { s with
    sensor := v
    answers := s.answers.drop ts.length
    draws := s.draws + ts.length
    bus := s.bus ++ ts }

/-! ### The reference sensor -/

/-- R61: after a successful write of `w` the bits 14:8 of CONFIG are those of `w`. It holds of itself when
`w` leaves the reset bit clear; else it is a premise about the sensor, which leaves `draw` (log 8). -/
abbrev KeepsWrite (w draw : Word) : Prop :=
  rstBit w = false ∨ draw &&& configKept = w &&& configKept

/-! ### Floating-point results -/

/-- R141: of all finite values the finite pattern `r` is one nearest to `num / den` units of 2^-1074, and of
two equally near it is the one whose last fraction bit is even. -/
def CorrectlyRounded (r : F64) (num den : Int) : Prop :=
  ∀ y, Binary64.isFinite y = true →
    |Binary64.value r * den - num| ≤ |Binary64.value y * den - num| ∧
      (|Binary64.value r * den - num| = |Binary64.value y * den - num| →
        Binary64.value y ≠ Binary64.value r → Binary64.frac r % 2 = 0)

/-- R142: half a unit in the last place above the largest finite value, in units of 2^-1074. -/
def overflowBound : Nat := (2 ^ 54 - 1) * 2 ^ 2044

/-- R154: the same pattern, but for the choice of NaN. -/
abbrev SameButNaN (x y : F64) : Prop :=
  x = y ∨ (Binary64.isNaN x = true ∧ Binary64.isNaN y = true)

/-! ### Good states and good records -/

/-- R23, R24: RESULT has the format RKIND names. -/
def resultFits : RKind → Option F64 → Bool
  | .none, none => true
  | .bool, some v => v == 0#64 || v == 1#64
  | .int16, some v => v == (v.extractLsb' 0 16).signExtend 64
  | .f64, some _ => true
  | _, _ => false

/-- R25: ERRINFO holds a value exactly when STATUS is TransportError. -/
def errinfoFits : Status → Option TransportErr → Bool
  | .transportError, some _ => true
  | .transportError, none => false
  | _, none => true
  | _, some _ => false

/-- R22 to R25, R176: the outcome registers agree with each other; a fault leaves no result. -/
def registersAgree (s : State) : Bool :=
  resultFits s.rkind s.result && errinfoFits s.status s.errinfo &&
    (s.status == .ok || s.rkind == .none)

/-- R52, R54, R55: a transaction names one of the five registers, writes go to CONFIG only, and the answer is
one the request can have. -/
def transferAllowed (t : Transfer) : Bool :=
  match t.req, t.res with
  | .read a, .data _ _ => (regAt a).isSome
  | .read a, .failed _ => (regAt a).isSome
  | .read a, .pending => (regAt a).isSome
  | .read _, .done => false
  | .write a _ _, .done => a == Reg.config.addr
  | .write a _ _, .failed _ => a == Reg.config.addr
  | .write a _ _, .pending => a == Reg.config.addr
  | .write _ _ _, .data _ _ => false

/-- R65, R212: only the last transaction of the record can be without an answer, and it is so exactly when
the converter waits. -/
def recordSound (s : State) : Bool :=
  s.bus.all transferAllowed &&
    (if s.waiting then
      s.bus.dropLast.all Transfer.answered &&
        (match s.bus.getLast? with
         | some t => !t.answered
         | none => false)
     else s.bus.all Transfer.answered)

/-- The invariant of the machine. -/
abbrev Inv (s : State) : Prop := registersAgree s = true ∧ recordSound s = true

end Sys2Proof.Machine
end

