-- ==== Sys2Proof/Certificates/Slice0/Obligations.lean ====
section
/-! DEFINITION. The statements for the provers. -/

open Sys2Proof Sys2Proof.Machine Sys2Proof.Machine.Binary64

/-! ### Reset -/

/-- 10_state.md R38, 70_reset_and_hazards.md R200: reset leaves an idle converter in `Uninitialized` with
STATUS OK, no result and no error value, and makes no transaction. That CONFIG is CONFIG_RESET and that the
identifiers are the sensor's, each an opaque constant, is R38 and R7 as the model takes them (log 12). -/
def Obligations.ResetLeavesIdleUninitializedConverter : Prop :=
  readPstate State.reset = 0#2 ∧ readStatus State.reset = 0x00#8 ∧ readRkind State.reset = 0#2 ∧
    State.reset.result = none ∧ State.reset.errinfo = none ∧
    State.reset.sensor.config = Config.configReset ∧
    State.reset.sensor.manid = Config.sensorManid ∧ State.reset.sensor.devid = Config.sensorDevid ∧
    State.reset.waiting = false ∧ State.reset.bus = []

/-- The invariant of the machine holds at reset. -/
def Obligations.ResetMeetsMachineInvariant : Prop := Inv State.reset

/-! ### Encoding -/

/-- 30_encoding.md R80 to R84: decoding the word of a well-formed command gives the command back. -/
def Obligations.DecodeOfEncodeGivesCommand : Prop :=
  ∀ i : Instr, i.WellFormed → decode (encode i) = .ok i

/-- 30_encoding.md R80 to R84: a word that decodes is the word of the command it decodes to, and that command
is well formed; so no two words stand for one command. -/
def Obligations.EncodeOfDecodeGivesWord : Prop :=
  ∀ (w : Word) (i : Instr), decode w = .ok i → i.WellFormed ∧ encode i = w

/-- 30_encoding.md R85: a word is illegal exactly when `op` is 0x00 or 0x08 to 0xFF, or `op` is 0x02 to 0x07
and `imm8` is not 0x00; and exactly when it matches no row of the opcode table. -/
def Obligations.DecoderRejectsExactlyIllegalWords : Prop :=
  ∀ w : Word,
    ((∃ e, decode w = .error e) ↔
      ((opField w).toNat = 0x00 ∨ 0x08 ≤ (opField w).toNat ∨
        (0x02 ≤ (opField w).toNat ∧ (opField w).toNat ≤ 0x07 ∧ immField w ≠ 0x00#8))) ∧
    ((∃ e, decode w = .error e) ↔ inOpcodeTable w = false)

/-- 30_encoding.md R82 and every word of 95_test_vectors.md V1 to V9, written out. -/
def Obligations.WrittenOutWordsDecode : Prop :=
  decode 0x0110#16 = .ok (.init 16) ∧ decode 0x0101#16 = .ok (.init 1) ∧
    decode 0x0103#16 = .ok (.init 3) ∧ decode 0x01FF#16 = .ok (.init 255) ∧
    decode 0x0200#16 = .ok .sleep ∧ decode 0x0300#16 = .ok .wake ∧
    decode 0x0400#16 = .ok .rdvobj ∧ decode 0x0500#16 = .ok .rdtamb ∧
    decode 0x0600#16 = .ok .rddiec ∧ decode 0x0700#16 = .ok .rdobjc ∧
    decode 0x0000#16 = .error (.undefinedOp 0x00#8) ∧
    decode 0x0800#16 = .error (.undefinedOp 0x08#8) ∧
    decode 0xFF00#16 = .error (.undefinedOp 0xFF#8) ∧
    decode 0xFFFF#16 = .error (.undefinedOp 0xFF#8) ∧
    decode 0x0010#16 = .error (.undefinedOp 0x00#8) ∧
    decode 0x0201#16 = .error (.nonzeroImm 0x02#8 0x01#8) ∧
    decode 0x0310#16 = .error (.nonzeroImm 0x03#8 0x10#8) ∧
    decode 0x07FF#16 = .error (.nonzeroImm 0x07#8 0xFF#8)

/-- 30_encoding.md R99, R100: the line `INIT` assembles to `INIT 16`, word 0x0110; `INIT` with any operand 0
to 255 in decimal assembles to that command; each other mnemonic to its command's word. -/
def Obligations.AssemblerLinesGiveCommandWords : Prop :=
  assembleWord ['I', 'N', 'I', 'T'] = some 0x0110#16 ∧
    (∀ rate : Nat, rate < 256 →
      assembleLine (['I', 'N', 'I', 'T', ' '] ++ Nat.toDigits 10 rate) = .command (.init rate)) ∧
    assembleWord ['S', 'L', 'E', 'E', 'P'] = some 0x0200#16 ∧
    assembleWord ['W', 'A', 'K', 'E'] = some 0x0300#16 ∧
    assembleWord ['R', 'D', 'V', 'O', 'B', 'J'] = some 0x0400#16 ∧
    assembleWord ['R', 'D', 'T', 'A', 'M', 'B'] = some 0x0500#16 ∧
    assembleWord ['R', 'D', 'D', 'I', 'E', 'C'] = some 0x0600#16 ∧
    assembleWord ['R', 'D', 'O', 'B', 'J', 'C'] = some 0x0700#16

/-! ### The step -/

/-- 10_state.md R30, 70_reset_and_hazards.md R214: when the next command word decodes, the step is `exec` of
that command, in the state from which the word has been taken. -/
def Obligations.StepRunsDecodedCommand : Prop :=
  ∀ (s : State) (w : Word) (rest : List Word) (i : Instr),
    s.waiting = false → s.cmds = w :: rest → decode w = .ok i →
      step s = exec i { s with cmds := rest }

/-- The state in which a row of the opcode table is issued next runs exactly the row's command (log 1). -/
def Obligations.IssuedTableWordRuns : Prop :=
  ∀ (s : State) (nbits w : Nat) (i : Instr), decodeTableWord nbits w = some i →
    step (s.withFetchWord nbits w) = exec i { s with waiting := false }

/-- With no command to issue, a converter that does not wait stays as it is (model's choice, log 1). -/
def Obligations.IdleStepChangesNothing : Prop :=
  ∀ s : State, s.waiting = false → s.cmds = [] → step s = .next s

/-- 60_exceptions.md R173: a command word that matches no row of the opcode table raises IllegalCommand: the
sensor is untouched, no transaction is made, PSTATE is unchanged, STATUS is 0x03, RKIND is none. -/
def Obligations.IllegalWordRaisesIllegalCommand : Prop :=
  ∀ (s : State) (w : Word) (rest : List Word),
    s.waiting = false → s.cmds = w :: rest → inOpcodeTable w = false →
      ∃ t, step s = .next t ∧
        t = { s with
              cmds := rest, status := .illegalCommand, rkind := .none, result := none, errinfo := none } ∧
        readStatus t = 0x03#8 ∧ readRkind t = 0#2

/-! ### INIT, SLEEP, WAKE -/

/-- 30_encoding.md R92 and R93: `crmask` is defined on exactly the five legal rates; for those it is
`log2(rate) << 9`, and the configuration word is 0x7000 OR 0x0100 OR crmask(rate), with mode field 0b111,
sample-rate field log2(rate), data-ready-enable set, and bits 15 and 7:0 clear. -/
def Obligations.SampleRateMaskAndConfigWord : Prop :=
  (∀ rate : Nat, (∃ m, crmask rate = some m) ↔ rate ∈ [1, 2, 4, 8, 16]) ∧
    (∀ (rate : Nat) (m : Word), crmask rate = some m →
      m = BitVec.ofNat 16 (Nat.log2 rate) <<< 9 ∧
        configWord m = 0x7000#16 ||| 0x0100#16 ||| m ∧
        modField (configWord m) = 0b111#3 ∧ crField (configWord m) = BitVec.ofNat 3 (Nat.log2 rate) ∧
        enBit (configWord m) = true ∧ rstBit (configWord m) = false ∧
        (configWord m).extractLsb' 0 8 = 0x00#8)

/-- 40_config_power.md R111: INIT with a legal rate, each of its three transactions succeeding. The next state
is given whole: CONFIG holds the configuration word, PSTATE is Active, RESULT is the identity check's outcome
as bool, STATUS is OK; three transactions in order; nothing else changes. Completion of `init`. -/
def Obligations.InitConfiguresAndChecksIdentity : Prop :=
  ∀ (s : State) (rate : Nat) (m d0 d1 d2 : Word),
    crmask rate = some m →
    answerAt s 0 = .ok d0 → answerAt s 1 = .ok d1 → answerAt s 2 = .ok d2 →
      exec (.init rate) s = .next
        { afterBus
            [writeTransfer (configWord m), readTransfer .manid s.sensor.manid,
              readTransfer .devid s.sensor.devid]
            { s.sensor with config := configWord m } s with
          pstate := .active
          status := .ok
          rkind := .bool
          result := some (if s.sensor.manid = 0x5449#16 ∧ s.sensor.devid = 0x0067#16 then 1#64 else 0#64)
          errinfo := none }

/-- 60_exceptions.md R171: a rate that is not 1, 2, 4, 8 or 16 makes INIT raise InvalidArgument before any
transaction: the sensor and PSTATE are as before, STATUS is 0x01, RKIND is none. No other command that ends
can leave that STATUS. -/
def Obligations.IllegalRateRaisesInvalidArgument : Prop :=
  (∀ (s : State) (rate : Nat), rate ∉ [1, 2, 4, 8, 16] →
      ∃ t, exec (.init rate) s = .next t ∧
        t = { s with status := .invalidArgument, rkind := .none, result := none, errinfo := none } ∧
        readStatus t = 0x01#8) ∧
    (∀ (i : Instr) (s t : State), (∀ rate, i ≠ .init rate) → exec i s = .next t → t.waiting = false →
      t.status ≠ .invalidArgument)

/-- 40_config_power.md R114 (c), (d), 60_exceptions.md R178: what INIT leaves when its transaction 0, 1 or 2
fails. After a failed write CONFIG holds any value; after a failed identity read the sensor is configured and
PSTATE is Active. -/
def Obligations.InitFailsAtEachTransaction : Prop :=
  ∀ (s : State) (rate : Nat) (m : Word) (e : TransportErr), crmask rate = some m →
    (∀ left, answerAt s 0 = .fail e left →
      exec (.init rate) s = .next
        { afterBus [failedWrite (configWord m) e] { s.sensor with config := left } s with
          status := .transportError, rkind := .none, result := none, errinfo := some e }) ∧
    (∀ d0 left, answerAt s 0 = .ok d0 → answerAt s 1 = .fail e left →
      exec (.init rate) s = .next
        { afterBus [writeTransfer (configWord m), failedRead .manid e]
            { s.sensor with config := configWord m } s with
          pstate := .active, status := .transportError, rkind := .none, result := none,
          errinfo := some e }) ∧
    (∀ d0 d1 left, answerAt s 0 = .ok d0 → answerAt s 1 = .ok d1 → answerAt s 2 = .fail e left →
      exec (.init rate) s = .next
        { afterBus
            [writeTransfer (configWord m), readTransfer .manid s.sensor.manid, failedRead .devid e]
            { s.sensor with config := configWord m } s with
          pstate := .active, status := .transportError, rkind := .none, result := none,
          errinfo := some e })

/-- 40_config_power.md R115: SLEEP, both transactions succeeding. `c` is the word read: bits 14:8 as CONFIG
holds them, the others drawn. The word written is `c AND 0x8FFF`; PSTATE is Sleeping; there is no result.
CONFIG then holds the word written, or any value where it sets the reset bit (log 8). Nothing else changes.
Completion of `sleep`. -/
def Obligations.SleepClearsModeField : Prop :=
  ∀ (s : State) (d0 d1 c : Word),
    c = (s.sensor.config &&& 0x7F00#16) ||| (d0 &&& 0x80FF#16) →
    answerAt s 0 = .ok d0 → answerAt s 1 = .ok d1 →
      exec .sleep s = .next
        { afterBus [readTransfer .config c, writeTransfer (c &&& 0x8FFF#16)]
            { s.sensor with config := if c.getLsbD 15 then d1 else c &&& 0x8FFF#16 } s with
          pstate := .sleeping, status := .ok, rkind := .none, result := none, errinfo := none }

/-- 40_config_power.md R118: WAKE, both transactions succeeding: as SLEEP, with the word `c OR 0x7000` and
PSTATE Active. Completion of `wake`. -/
def Obligations.WakeSetsModeField : Prop :=
  ∀ (s : State) (d0 d1 c : Word),
    c = (s.sensor.config &&& 0x7F00#16) ||| (d0 &&& 0x80FF#16) →
    answerAt s 0 = .ok d0 → answerAt s 1 = .ok d1 →
      exec .wake s = .next
        { afterBus [readTransfer .config c, writeTransfer (c ||| 0x7000#16)]
            { s.sensor with config := if c.getLsbD 15 then d1 else c ||| 0x7000#16 } s with
          pstate := .active, status := .ok, rkind := .none, result := none, errinfo := none }

/-- 40_config_power.md R116 (f), R119 (e), 60_exceptions.md R178: SLEEP and WAKE whose read fails write
nothing but the outcome registers; when the write fails CONFIG holds any value and PSTATE is unchanged. -/
def Obligations.SleepAndWakeFailures : Prop :=
  ∀ (i : Instr) (edit : Word → Word), (i = .sleep ∧ edit = clearMode) ∨ (i = .wake ∧ edit = setMode) →
    ∀ (s : State) (e : TransportErr),
      (∀ left, answerAt s 0 = .fail e left →
        exec i s = .next
          { afterBus [failedRead .config e] s.sensor s with
            status := .transportError, rkind := .none, result := none, errinfo := some e }) ∧
      (∀ d0 left, answerAt s 0 = .ok d0 → answerAt s 1 = .fail e left →
        exec i s = .next
          { afterBus
              [readTransfer .config (mergeConfig s.sensor.config d0),
                failedWrite (edit (mergeConfig s.sensor.config d0)) e]
              { s.sensor with config := left } s with
            status := .transportError, rkind := .none, result := none, errinfo := some e })

/-- 10_state.md R27, the complete table of the transitions of PSTATE. -/
def Obligations.PowerStateTransitionTable : Prop :=
  ∀ (i : Instr) (s t : State), exec i s = .next t →
    (∀ rate, i = .init rate →
      t.pstate =
        if rate ∈ [1, 2, 4, 8, 16] ∧ ∃ d, answerAt s 0 = .ok d then .active else s.pstate) ∧
    (i = .sleep →
      t.pstate =
        if (∃ d, answerAt s 0 = .ok d) ∧ ∃ d, answerAt s 1 = .ok d then .sleeping else s.pstate) ∧
    (i = .wake →
      t.pstate =
        if (∃ d, answerAt s 0 = .ok d) ∧ ∃ d, answerAt s 1 = .ok d then .active else s.pstate) ∧
    (i = .rdvobj ∨ i = .rdtamb ∨ i = .rddiec ∨ i = .rdobjc → t.pstate = s.pstate)

/-- 10_state.md R26 (the spec's inference): after a successful INIT, SLEEP or WAKE, PSTATE is Active exactly
when the mode field of CONFIG is 0b111 and Sleeping exactly when it is 0b000. The premise is the reference
sensor of R61: a write of SLEEP or WAKE keeps its bits 14:8 (log 7, log 8). -/
def Obligations.PowerStateMirrorsModeField : Prop :=
  ∀ (i : Instr) (s t : State), ((∃ rate, i = .init rate) ∨ i = .sleep ∨ i = .wake) →
    exec i s = .next t → t.waiting = false → t.status = .ok →
    (∀ d0 d1, i = .sleep → answerAt s 0 = .ok d0 → answerAt s 1 = .ok d1 →
      KeepsWrite (clearMode (mergeConfig s.sensor.config d0)) d1) →
    (∀ d0 d1, i = .wake → answerAt s 0 = .ok d0 → answerAt s 1 = .ok d1 →
      KeepsWrite (setMode (mergeConfig s.sensor.config d0)) d1) →
      (t.pstate = .active ↔ modField t.sensor.config = 0b111#3) ∧
        (t.pstate = .sleeping ↔ modField t.sensor.config = 0b000#3)

/-- 40_config_power.md R120: a SLEEP and then a WAKE, both succeeding, leave CONFIG bits 14:12 at 0b111 and
bits 11:8, the sample rate and data-ready-enable, as they were, under the reference sensor (the two words
read have bit 15 clear). The mode field is what it was only if it was 0b111 (90_conflicts.md C6). -/
def Obligations.SleepThenWakeKeepsRateAndEnable : Prop :=
  ∀ (s t u : State) (d0 d1 d2 d3 : Word),
    answerAt s 0 = .ok d0 → answerAt s 1 = .ok d1 → answerAt s 2 = .ok d2 → answerAt s 3 = .ok d3 →
    rstBit d0 = false → rstBit d2 = false →
    exec .sleep s = .next t → exec .wake t = .next u →
      modField u.sensor.config = 0b111#3 ∧
        u.sensor.config.extractLsb' 8 4 = s.sensor.config.extractLsb' 8 4 ∧
        u.pstate = .active ∧
        (modField s.sensor.config = 0b111#3 → modField u.sensor.config = modField s.sensor.config)

/-- 40_config_power.md R121, R122: the CONFIG word that SLEEP or WAKE writes has every bit outside 14:12 as
in the CONFIG word it read, with the mode field 0b000 after SLEEP and 0b111 after WAKE; and whatever CONFIG
word a command writes with bit 15 set, the command read it with bit 15 set. -/
def Obligations.WriteBackEchoesOtherFields : Prop :=
  (∀ (i : Instr) (s t : State) (new : List Transfer) (f' g' f g : Byte) (res : Response),
      i = .sleep ∨ i = .wake → exec i s = .next t → t.bus = s.bus ++ new →
      { req := .read 0x02#8, res := .data f' g' } ∈ new → { req := .write 0x02#8 f g, res := res } ∈ new →
        wordOfBytes f g &&& 0x8FFF#16 = wordOfBytes f' g' &&& 0x8FFF#16 ∧
          modField (wordOfBytes f g) = if i = .sleep then 0b000#3 else 0b111#3) ∧
    (∀ (i : Instr) (s t : State) (new : List Transfer) (a : Addr) (f g : Byte) (res : Response),
      exec i s = .next t → t.bus = s.bus ++ new →
      { req := .write a f g, res := res } ∈ new → f.getLsbD 7 = true →
        ∃ f' g', { req := .read 0x02#8, res := .data f' g' } ∈ new ∧ f'.getLsbD 7 = true)

/-! ### RDVOBJ, RDTAMB -/

/-- 41_raw_access.md R131: RDVOBJ. Word 0x0400; RESULT is the sign-extended word read, RKIND is int16; it
fails at its one transaction only (60_exceptions.md R172). Nothing else of the converter changes. That the
sensor's VOBJ shows the word read is the model's choice (log 6). Completion of `rdvobj`. -/
def Obligations.RdvobjReturnsSignedVoltage : Prop :=
  decode 0x0400#16 = .ok .rdvobj ∧
  ∀ s : State,
    (∀ w, answerAt s 0 = .ok w →
      exec .rdvobj s = .next
        { afterBus [readTransfer .vobj w] { s.sensor with vobj := w } s with
          status := .ok, rkind := .int16, result := some (w.signExtend 64), errinfo := none }) ∧
    (∀ e left, answerAt s 0 = .fail e left →
      exec .rdvobj s = .next
        { afterBus [failedRead .vobj e] s.sensor s with
          status := .transportError, rkind := .none, result := none, errinfo := some e })

/-- 41_raw_access.md R133: RDTAMB. Word 0x0500; RESULT is the word read shifted right arithmetically by 2 and
sign-extended, RKIND is int16; it fails at its one transaction only (60_exceptions.md R172). That the sensor's
TAMB shows the word read is the model's choice (log 6). Completion of `rdtamb`. -/
def Obligations.RdtambReturnsShiftedDieCount : Prop :=
  decode 0x0500#16 = .ok .rdtamb ∧
  ∀ s : State,
    (∀ w, answerAt s 0 = .ok w →
      exec .rdtamb s = .next
        { afterBus [readTransfer .tamb w] { s.sensor with tamb := w } s with
          status := .ok, rkind := .int16, result := some ((w.sshiftRight 2).signExtend 64),
          errinfo := none }) ∧
    (∀ e left, answerAt s 0 = .fail e left →
      exec .rdtamb s = .next
        { afterBus [failedRead .tamb e] s.sensor s with
          status := .transportError, rkind := .none, result := none, errinfo := some e })

/-- 41_raw_access.md R134: the shift law. -/
def Obligations.ArithmeticShiftLaw : Prop :=
  (∀ w : Word,
      asr2 w = w.extractLsb' 15 1 ++ w.extractLsb' 15 1 ++ w.extractLsb' 2 14 ∧
        s16 (asr2 w) = Int.fdiv (s16 w) 4 ∧ asr2 w = asr2 (w &&& 0xFFFC#16)) ∧
    asr2 0x0000#16 = 0x0000#16 ∧ asr2 0x0003#16 = 0x0000#16 ∧ asr2 0x0004#16 = 0x0001#16 ∧
    asr2 0x0007#16 = 0x0001#16 ∧ asr2 0x7FFF#16 = 0x1FFF#16 ∧ asr2 0x8000#16 = 0xE000#16 ∧
    asr2 0xFFFB#16 = 0xFFFE#16 ∧ asr2 0xFFFC#16 = 0xFFFF#16 ∧ asr2 0xFFFF#16 = 0xFFFF#16

/-! ### RDDIEC, RDOBJC -/

/-- 42_conversion.md R146: RDDIEC. Word 0x0600; RESULT is `fmul(i2f(m), k[LSB_T])` with `m = asr(w, 2)`,
RKIND is f64; it fails at its one transaction only (60_exceptions.md R172). That the sensor's TAMB shows the
word read (log 6) and the number of the NaN draw (log 18) are the model's choice. Completion of `rddiec`. -/
def Obligations.RddiecReturnsDieTemperature : Prop :=
  decode 0x0600#16 = .ok .rddiec ∧
  ∀ s : State,
    (∀ w, answerAt s 0 = .ok w →
      exec .rddiec s = .next
        { afterBus [readTransfer .tamb w] { s.sensor with tamb := w } s with
          status := .ok, rkind := .f64,
          result := some (fmul (Config.nanDraw (s.draws + 1) 0) (i2f (s16 (w.sshiftRight 2)))
            0x3FA0000000000000#64),
          errinfo := none }) ∧
    (∀ e left, answerAt s 0 = .fail e left →
      exec .rddiec s = .next
        { afterBus [failedRead .tamb e] s.sensor s with
          status := .transportError, rkind := .none, result := none, errinfo := some e })

/-- 42_conversion.md R148: RDOBJC, both reads succeeding, with the nine steps written out: TAMB is read
first, then VOBJ; RESULT is `out`, RKIND is f64, whatever `out` is (R152 a). `VOBJ_SCALE` and `POW4` are the
configuration's (R150, R151). That the sensor's TAMB and VOBJ show the words read (log 6) and the numbers of
the NaN draws (log 18) are the model's choice. Completion of `rdobjc`. -/
def Obligations.RdobjcReturnsObjectTemperature : Prop :=
  decode 0x0700#16 = .ok .rdobjc ∧
  ∀ (s : State) (wt wv : Word), answerAt s 0 = .ok wt → answerAt s 1 = .ok wv →
    let nan := Config.nanDraw (s.draws + 2)
    let k := Config.constFile
    let m := s16 (wt.sshiftRight 2)
    let n := s16 wv
    let v1 := fmul (nan 1) (i2f n) k.lsbV
    let vobj := match Config.vobjScale with
      | .mul => fmul (nan 2) v1 k.nano
      | .div => fdiv (nan 2) v1 k.giga
    let t1 := fmul (nan 0) (i2f m) k.lsbT
    let tdie := fadd (nan 3) t1 k.kIn
    let x := fsub (nan 4) tdie k.tref
    let x2 := fmul (nan 5) x x
    let p := fadd (nan 9) (fadd (nan 7) k.one (fmul (nan 6) k.a1 x)) (fmul (nan 8) k.a2 x2)
    let s1 := fmul (nan 10) k.s0 p
    let s2 := fdiv (nan 11) s1 k.ten7
    let sens := fdiv (nan 12) s2 k.ten7
    let vos := fadd (nan 16) (fadd (nan 14) k.b0 (fmul (nan 13) k.b1 x)) (fmul (nan 15) k.b2 x2)
    let d := fsub (nan 17) vobj vos
    let f := fadd (nan 20) d (fmul (nan 19) k.c2 (fmul (nan 18) d d))
    let r := fdiv (nan 21) f sens
    let q := fadd (nan 22) (Config.pow4 tdie) r
    let tobj := fsqrt (nan 24) (fsqrt (nan 23) q)
    exec .rdobjc s = .next
      { afterBus [readTransfer .tamb wt, readTransfer .vobj wv]
          { s.sensor with tamb := wt, vobj := wv } s with
        status := .ok, rkind := .f64, result := some (fsub (nan 25) tobj k.kOut), errinfo := none }

/-- 60_exceptions.md R178, 95_test_vectors.md V82, V83: RDOBJC whose first or second read fails. That TAMB
shows the word read before the second read failed is the model's choice (log 6). -/
def Obligations.RdobjcFailsAtEachTransaction : Prop :=
  ∀ (s : State) (e : TransportErr),
    (∀ left, answerAt s 0 = .fail e left →
      exec .rdobjc s = .next
        { afterBus [failedRead .tamb e] s.sensor s with
          status := .transportError, rkind := .none, result := none, errinfo := some e }) ∧
    (∀ wt left, answerAt s 0 = .ok wt → answerAt s 1 = .fail e left →
      exec .rdobjc s = .next
        { afterBus [readTransfer .tamb wt, failedRead .vobj e] { s.sensor with tamb := wt } s with
          status := .transportError, rkind := .none, result := none, errinfo := some e })

/-- 42_conversion.md R147: the die temperature is the real number `m / 32` with no rounding, never a NaN, an
infinity, a subnormal or `-0`, and lies between -256 and 255.96875. -/
def Obligations.DieTemperatureIsExact : Prop :=
  ∀ (nan : Nat → BitVec 52) (w : Word),
    let c := dieTempC Config.constFile nan (dieCount w)
    isFinite c = true ∧ value c * 32 = dieCount w * 2 ^ 1074 ∧ c ≠ 0x8000000000000000#64 ∧
      (expo c = 0 → c = 0x0000000000000000#64) ∧
      -256 * 2 ^ 1074 ≤ value c ∧ value c * 100000 ≤ 25596875 * 2 ^ 1074

/-- 42_conversion.md R154: the result of RDOBJC depends on the two words read alone, and not on bits 1:0 of
the TAMB word: two states whatever else they hold, at whatever times of a run, give the same RESULT but for
the choice of NaN. -/
def Obligations.ObjectTemperatureDependsOnWordsOnly : Prop :=
  ∀ (s s' t t' : State) (wt wt' wv : Word),
    answerAt s 0 = .ok wt → answerAt s' 0 = .ok wt' → wt &&& 0xFFFC#16 = wt' &&& 0xFFFC#16 →
    answerAt s 1 = .ok wv → answerAt s' 1 = .ok wv →
    exec .rdobjc s = .next t → exec .rdobjc s' = .next t' →
      t.status = .ok ∧ t'.status = .ok ∧
        ∃ x x', t.result = some x ∧ t'.result = some x' ∧ SameButNaN x x'

/-- 42_conversion.md R152 (b), (c): a radicand that is a NaN, a finite number below zero or the negative
infinity makes the result a NaN; the positive infinity makes it the positive infinity. With a finite `T4`, a
zero sensitivity and a finite non-zero `f` the radicand is an infinity, of the sign that the signs of `f` and
the zero give; with `f` zero too it is a NaN. -/
def Obligations.ObjectTemperatureEdgeCases : Prop :=
  ∀ (nan : Nat → BitVec 52),
    (∀ q, isNaN q = true ∨ (isFinite q = true ∧ value q < 0) ∨ q = infinity true →
      isNaN (rootTempC Config.constFile nan q) = true) ∧
    rootTempC Config.constFile nan (infinity false) = infinity false ∧
    (∀ (pow4 : F64 → F64) (tdie f z : F64), isFinite (pow4 tdie) = true → isZero z = true →
      (isFinite f = true → isZero f = false →
        radicand pow4 nan tdie f z = infinity (sign f != sign z)) ∧
      (isZero f = true → isNaN (radicand pow4 nan tdie f z) = true))

/-! ### Floating point -/

/-- 42_conversion.md R145: `i2f` is exact on every 16-bit signed integer, and `i2f(0) = +0`. -/
def Obligations.IntegerToBinary64IsExact : Prop :=
  (∀ n : Int, -32768 ≤ n → n ≤ 32767 →
    isFinite (i2f n) = true ∧ value (i2f n) = n * 2 ^ 1074 ∧ i2f n ≠ 0x8000000000000000#64) ∧
    i2f 0 = 0x0000000000000000#64

/-- 42_conversion.md R141: `roundTo` returns, of all binary64 values of the sign, one nearest to `num / den`
units of 2^-1074, and of two equally near the one whose last fraction bit is even. -/
def Obligations.RoundingIsToNearestTiesToEven : Prop :=
  ∀ (neg : Bool) (num den : Nat) (y : F64), 0 < den → isFinite (roundTo neg num den) = true →
    isFinite y = true →
      sign (roundTo neg num den) = neg ∧
      ((mag (roundTo neg num den) * den : Int) - num).natAbs ≤ ((mag y * den : Int) - num).natAbs ∧
      (((mag (roundTo neg num den) * den : Int) - num).natAbs = ((mag y * den : Int) - num).natAbs →
        mag y ≠ mag (roundTo neg num den) → frac (roundTo neg num den) % 2 = 0)

/-- 42_conversion.md R141, R142: a magnitude rounds to an infinity exactly from half a unit above the largest
finite value on. -/
def Obligations.RoundingOverflowsToInfinity : Prop :=
  ∀ (neg : Bool) (num den : Nat), 0 < den →
    (isFinite (roundTo neg num den) = true ↔ num < overflowBound * den) ∧
    (isFinite (roundTo neg num den) = false → roundTo neg num den = infinity neg)

/-- 42_conversion.md R141, R144: `fsqrt` of a positive finite value is a binary64 value nearest to the exact
square root: with `N` the radicand in units of 2^-2148, no finite value lies nearer to the root of `N`. -/
def Obligations.SquareRootIsCorrectlyRounded : Prop :=
  ∀ (d : BitVec 52) (a y : F64), isFinite a = true → isZero a = false → sign a = false →
    isFinite y = true →
      isFinite (fsqrt d a) = true ∧ sign (fsqrt d a) = false ∧
        |(mag (fsqrt d a) : ℝ) - Real.sqrt ((mag a : ℝ) * 2 ^ 1074)| ≤
          |(mag y : ℝ) - Real.sqrt ((mag a : ℝ) * 2 ^ 1074)|

/-- 42_conversion.md R149 (g): addition and multiplication are commutative. -/
def Obligations.AdditionAndMultiplicationCommute : Prop :=
  ∀ (d : BitVec 52) (a b : F64), fadd d a b = fadd d b a ∧ fmul d a b = fmul d b a

/-- 42_conversion.md R141: a finite result of `fadd`, `fsub`, `fmul` or `fdiv` of finite operands is the exact
sum, difference, product or quotient rounded once: no finite value lies nearer to it, and of two equally near
the result is the one with an even last fraction bit. Values are in units of 2^-1074, so a product is compared
in units of 2^-2148 and a quotient after multiplying by the divisor. -/
def Obligations.ArithmeticIsCorrectlyRounded : Prop :=
  ∀ (d : BitVec 52) (a b : F64), isFinite a = true → isFinite b = true →
    (isFinite (fadd d a b) = true → CorrectlyRounded (fadd d a b) (value a + value b) 1) ∧
    (isFinite (fsub d a b) = true → CorrectlyRounded (fsub d a b) (value a - value b) 1) ∧
    (isFinite (fmul d a b) = true → CorrectlyRounded (fmul d a b) (value a * value b) one64) ∧
    (isZero b = false → isFinite (fdiv d a b) = true →
      CorrectlyRounded (fdiv d a b) (value a * one64) (value b))

/-- 42_conversion.md R141, R142: a sum, difference, product or quotient of finite operands is finite exactly
when the exact result is below half a unit above the largest finite value in magnitude; else it is the
infinity of the exact result's sign. -/
def Obligations.ArithmeticOverflowsToInfinity : Prop :=
  ∀ (d : BitVec 52) (a b : F64), isFinite a = true → isFinite b = true →
    (isFinite (fadd d a b) = true ↔ |value a + value b| < overflowBound) ∧
    (isFinite (fadd d a b) = false → fadd d a b = infinity (decide (value a + value b < 0))) ∧
    (isFinite (fsub d a b) = true ↔ |value a - value b| < overflowBound) ∧
    (isFinite (fsub d a b) = false → fsub d a b = infinity (decide (value a - value b < 0))) ∧
    (isFinite (fmul d a b) = true ↔ |value a * value b| < overflowBound * one64) ∧
    (isFinite (fmul d a b) = false → fmul d a b = infinity (sign a != sign b)) ∧
    (isZero b = false →
      (isFinite (fdiv d a b) = true ↔ |value a * one64| < overflowBound * |value b|) ∧
      (isFinite (fdiv d a b) = false → fdiv d a b = infinity (sign a != sign b)))

/-- 42_conversion.md R142: the special values of `fadd`, `fsub` and `fmul`: NaN operands, infinities of like
and unlike signs, zero times an infinity, an infinite operand beside a finite one, `x - x`, `(+0) + (-0)` and
the sign of a product. Results too large are in `ArithmeticOverflowsToInfinity`. -/
def Obligations.AddSubMulSpecialValues : Prop :=
  ∀ (d : BitVec 52) (a b : F64),
    (isNaN a = true ∨ isNaN b = true →
      fadd d a b = quietNaN d ∧ fsub d a b = quietNaN d ∧ fmul d a b = quietNaN d) ∧
    (∀ neg, fadd d (infinity neg) (infinity (!neg)) = quietNaN d ∧
      fsub d (infinity neg) (infinity neg) = quietNaN d ∧
      fadd d (infinity neg) (infinity neg) = infinity neg ∧
      fsub d (infinity neg) (infinity (!neg)) = infinity neg) ∧
    (isInf a = true → isZero b = true → fmul d a b = quietNaN d ∧ fmul d b a = quietNaN d) ∧
    (isInf a = true → isFinite b = true → fadd d a b = a ∧ fsub d a b = a ∧
      fadd d b a = a ∧ fsub d b a = negate a) ∧
    (isInf a = true → isNaN b = false → isZero b = false →
      fmul d a b = infinity (sign a != sign b) ∧ fmul d b a = infinity (sign a != sign b)) ∧
    (isFinite a = true → fsub d a a = 0x0000000000000000#64) ∧
    fadd d (zero false) (zero true) = 0x0000000000000000#64 ∧
    (isFinite a = true → isFinite b = true →
      sign (fmul d a b) = (sign a != sign b) ∧ isNaN (fmul d a b) = false)

/-- 42_conversion.md R143: the special values of `fdiv`. -/
def Obligations.DivisionSpecialValues : Prop :=
  ∀ (d : BitVec 52) (a b : F64),
    (isNaN a = true ∨ isNaN b = true → fdiv d a b = quietNaN d) ∧
    (isZero a = true → isZero b = true → fdiv d a b = quietNaN d) ∧
    (isInf a = true → isInf b = true → fdiv d a b = quietNaN d) ∧
    (isFinite a = true → isZero a = false → isZero b = true →
      fdiv d a b = infinity (sign a != sign b)) ∧
    (isFinite a = true → isInf b = true → fdiv d a b = zero (sign a != sign b))

/-- 42_conversion.md R144: the special values of `fsqrt`; every NaN is a quiet one, with the sign and the
bits 50:0 of the draw and so of no known value. -/
def Obligations.SquareRootSpecialValues : Prop :=
  ∀ (d : BitVec 52) (a : F64),
    (isNaN a = true → fsqrt d a = quietNaN d) ∧
    (isFinite a = true → value a < 0 → fsqrt d a = quietNaN d) ∧
    fsqrt d (infinity true) = quietNaN d ∧
    fsqrt d 0x0000000000000000#64 = 0x0000000000000000#64 ∧
    fsqrt d 0x8000000000000000#64 = 0x8000000000000000#64 ∧
    fsqrt d (infinity false) = infinity false ∧
    isQuietNaN (quietNaN d) = true

/-- 30_encoding.md R96 and 92_eei_decisions.md D12: the source's decimal literals, each rounded once to
binary64, are the patterns of the constant file. -/
def Obligations.ConstantPatternsAreNearestToLiterals : Prop :=
  Config.constFile.one = roundTo false (1 * one64) 1 ∧
    Config.constFile.lsbV = roundTo false (15625 * one64) 100 ∧
    Config.constFile.nano = roundTo false (1 * one64) (10 ^ 9) ∧
    Config.constFile.giga = roundTo false (10 ^ 9 * one64) 1 ∧
    Config.constFile.lsbT = roundTo false (3125 * one64) 100000 ∧
    Config.constFile.kIn = roundTo false (27314 * one64) 100 ∧
    Config.constFile.kOut = roundTo false (27315 * one64) 100 ∧
    Config.constFile.tref = roundTo false (29815 * one64) 100 ∧
    Config.constFile.s0 = roundTo false (64 * one64) 10 ∧
    Config.constFile.ten7 = roundTo false (10 ^ 7 * one64) 1

/-! ### The transport -/

/-- 20_memory.md R53: the first byte of a word on the bus is `v[15:8]`, the second is `v[7:0]`, and the word
made of the bytes received in that order is the word sent. -/
def Obligations.BusIsBigEndian : Prop :=
  ∀ v : Word, (firstByte v).toNat = v.toNat / 256 ∧ (secondByte v).toNat = v.toNat % 256 ∧
    wordOfBytes (firstByte v) (secondByte v) = v

/-- 20_memory.md R52: the device refuses an access to an address outside the map, 0x03 to 0xFD, and no other
read; a write it refuses everywhere but at CONFIG. -/
def Obligations.DeviceRefusesUnmappedAddresses : Prop :=
  ∀ (a : Addr) (w : Word) (s : State) (nextR : Word → State → State) (nextW : State → State),
    (deviceRead a s nextR = .refused (.unmappedRegister a) ↔ 0x03 ≤ a.toNat ∧ a.toNat ≤ 0xFD) ∧
    (deviceWrite a w s nextW = .refused (.unmappedRegister a) ↔ 0x03 ≤ a.toNat ∧ a.toNat ≤ 0xFD) ∧
    ((∃ t, deviceRead a s nextR = .next t) ↔ ¬(0x03 ≤ a.toNat ∧ a.toNat ≤ 0xFD)) ∧
    ((∃ t, deviceWrite a w s nextW = .next t) ↔ a = 0x02#8)

/-- 20_memory.md R65, R72, 60_exceptions.md R183: a command makes the transactions of its row of the table, in
order, up to the first that does not succeed, and no other; a command that ends with STATUS OK has made them
all, each with success. -/
def Obligations.CommandsFollowTransactionTable : Prop :=
  ∀ (i : Instr) (s t : State), exec i s = .next t →
    ∃ new, t.bus = s.bus ++ new ∧ followsTable (transactionsOf i) new = true ∧
      (t.waiting = false → t.status = .ok →
        new.map (fun x => x.req.access) = (transactionsOf i).map some ∧
          new.all Transfer.succeeded = true)

/-- 60_exceptions.md R172: when a transaction of a command fails, the command ends there with STATUS
TransportError, the transport's own value in ERRINFO and no result; and only then does a command that ends
leave that STATUS. -/
def Obligations.TransportFailureEndsCommand : Prop :=
  ∀ (i : Instr) (s t : State) (new : List Transfer), exec i s = .next t → t.bus = s.bus ++ new →
    (∀ q e, ({ req := q, res := .failed e } : Transfer) ∈ new →
      t.status = .transportError ∧ t.errinfo = some e ∧ t.rkind = .none ∧ t.result = none ∧
        new.getLast? = some { req := q, res := .failed e }) ∧
    (t.waiting = false → t.status = .transportError →
      ∃ q e, new.getLast? = some { req := q, res := .failed e } ∧ t.errinfo = some e)

/-- 70_reset_and_hazards.md R212, 93_implementation_defined.md U14: a command whose transport never answers
leaves the converter waiting, with the outcome registers as they were, and then no step is enabled. -/
def Obligations.UnansweredTransactionHangsConverter : Prop :=
  ∀ (i : Instr) (s t : State) (new : List Transfer), s.waiting = false → exec i s = .next t →
    t.bus = s.bus ++ new →
      (t.waiting = true ↔ ∃ q, new.getLast? = some { req := q, res := .pending }) ∧
      (t.waiting = true →
        t.status = s.status ∧ t.rkind = s.rkind ∧ t.result = s.result ∧ t.errinfo = s.errinfo ∧
          step t = .fault .transportNeverAnswers)

/-! ### Whole-machine rules -/

/-- 10_state.md R22 to R25, 60_exceptions.md R176: every step keeps the machine's invariant: the outcome
registers agree with each other, the record holds only transactions the map allows, with writes to CONFIG
only, and only the last can be without an answer. -/
def Obligations.EveryStepKeepsMachineInvariant : Prop :=
  ∀ s t : State, Inv s → step s = .next t → Inv t

/-- 20_memory.md R62, 10_state.md R35: no step changes MANID or DEVID. -/
def Obligations.IdentityRegistersNeverChange : Prop :=
  ∀ s t : State, step s = .next t →
    t.sensor.manid = s.sensor.manid ∧ t.sensor.devid = s.sensor.devid

/-- 10_state.md R26, R27: a step that changes PSTATE has made a CONFIG write that succeeded, and no step leads
back to Uninitialized. -/
def Obligations.PowerStateChangesOnlyByConfigWrite : Prop :=
  ∀ s t : State, step s = .next t → t.pstate ≠ s.pstate →
    t.pstate ≠ .uninitialized ∧
      ∃ (new : List Transfer) (w : Word), t.bus = s.bus ++ new ∧ writeTransfer w ∈ new

/-- 40_config_power.md R121, 20_memory.md R55, R61: bits 14:8 of CONFIG change in a step only if the step asks
for a CONFIG write that succeeds, fails or is never answered. -/
def Obligations.ConfigChangesOnlyByWrite : Prop :=
  ∀ s t : State, step s = .next t →
    t.sensor.config &&& configKept ≠ s.sensor.config &&& configKept →
      ∃ (new : List Transfer) (w : Word) (res : Response),
        t.bus = s.bus ++ new ∧ { req := configWrite w, res := res } ∈ new

/-- 10_state.md R26, R32, 60_exceptions.md R182: no command depends on PSTATE, STATUS, RKIND, RESULT or
ERRINFO: two states that differ in these alone give next states that differ in PSTATE at most, or, where the
transport never answers, in these alone. -/
def Obligations.CommandsIgnoreEarlierOutcomes : Prop :=
  ∀ (i : Instr) (s s' t t' : State),
    s' = { s with
           pstate := s'.pstate, status := s'.status, rkind := s'.rkind, result := s'.result,
           errinfo := s'.errinfo } →
    exec i s = .next t → exec i s' = .next t' →
      t.sensor = t'.sensor ∧ t.waiting = t'.waiting ∧ t.cmds = t'.cmds ∧ t.answers = t'.answers ∧
        t.draws = t'.draws ∧ t.bus = t'.bus ∧ (t.waiting = false → observe t = observe t')

/-- 10_state.md R30, R31: a step of a converter with a command to run takes exactly that command, makes at
most three transactions and uses up one answer and one draw number for each. -/
def Obligations.StepTakesOneCommand : Prop :=
  ∀ s t : State, step s = .next t → s.cmds ≠ [] →
    t.cmds = s.cmds.tail ∧
      ∃ new : List Transfer, t.bus = s.bus ++ new ∧ new.length ≤ 3 ∧
        t.answers = s.answers.drop new.length ∧ t.draws = s.draws + new.length

/-- No command is refused and none stops the machine (60_exceptions.md R170). -/
def Obligations.EveryCommandAnswersNextState : Prop :=
  ∀ (i : Instr) (s : State), ∃ t, exec i s = .next t

/-! ### The host port -/

/-- 10_state.md R23, R25: a host read of RESULT faults exactly when RKIND is none, and a host read of ERRINFO
exactly when STATUS is not TransportError, in every state whose outcome registers agree. -/
def Obligations.HostReadsOfNoValueFault : Prop :=
  ∀ s : State, registersAgree s = true →
    (readResult s = .error .resultHoldsNoValue ↔ readRkind s = 0#2) ∧
    (readErrinfo s = .error .errinfoHoldsNoValue ↔ readStatus s ≠ 0x02#8) ∧
    (∀ v, readResult s = .ok v ↔ s.result = some v) ∧
    (∀ e, readErrinfo s = .ok e ↔ s.errinfo = some e)
end

