-- ==== Sys2Proof/Laws/Binary64.lean ====
section
/-! SUPPORT. The fields of the patterns the binary64 primitives build, said once. -/

namespace Sys2Proof.Machine.Binary64

theorem infBits_eq : infBits = 9218868437227405312 := rfl

/-- The bits of a pattern: the sign above the number `m`. -/
theorem toNat_pack (neg : Bool) {m : Nat} (h : m < 2 ^ 63) :
    (pack neg m).toNat = (if neg then 2 ^ 63 else 0) + m := by
  rw [pack, BitVec.toNat_ofNat]
  cases neg <;> simp <;> omega

theorem sign_eq (x : F64) : sign x = decide (2 ^ 63 ≤ x.toNat) := by
  have := x.isLt
  rw [sign, BitVec.getLsbD, Nat.testBit_eq_decide_div_mod_eq, decide_eq_decide]
  omega

theorem expo_eq (x : F64) : expo x = x.toNat / 2 ^ 52 % 2 ^ 11 := by
  rw [expo, BitVec.extractLsb'_toNat, Nat.shiftRight_eq_div_pow]

theorem frac_eq (x : F64) : frac x = x.toNat % 2 ^ 52 := by
  rw [frac, BitVec.extractLsb'_toNat, Nat.shiftRight_zero]

@[simp] theorem sign_pack (neg : Bool) {m : Nat} (h : m < 2 ^ 63) : sign (pack neg m) = neg := by
  rw [sign_eq, toNat_pack neg h]
  cases neg <;> simp; omega

@[simp] theorem expo_pack (neg : Bool) {m : Nat} (h : m < 2 ^ 63) :
    expo (pack neg m) = m / 2 ^ 52 := by
  rw [expo_eq, toNat_pack neg h]
  cases neg <;> simp <;> omega

@[simp] theorem frac_pack (neg : Bool) {m : Nat} (h : m < 2 ^ 63) :
    frac (pack neg m) = m % 2 ^ 52 := by
  rw [frac_eq, toNat_pack neg h]
  cases neg <;> simp; omega

/-- A pattern below that of the infinities is finite. -/
theorem isFinite_pack (neg : Bool) {m : Nat} (h : m < infBits) : isFinite (pack neg m) = true := by
  rw [infBits_eq] at h
  rw [isFinite, expo_pack neg (by omega), decide_eq_true_eq]
  omega

/-- The pattern whose unit in the last place has exponent `k` and whose significand is `n` stands for the
number `n * 2 ^ k`, also where `n` has carried to `2 ^ 53`. -/
theorem mag_pack (neg : Bool) {k n : Nat} (h : k * 2 ^ 52 + n < infBits) (hn : n ≤ 2 ^ 53)
    (hk : k = 0 ∨ 2 ^ 52 ≤ n) : mag (pack neg (k * 2 ^ 52 + n)) = n * 2 ^ k := by
  rw [infBits_eq] at h
  rw [mag, expo_pack neg (by omega), frac_pack neg (by omega)]
  rcases Nat.lt_or_ge n (2 ^ 52) with hlt | hge
  · obtain rfl : k = 0 := by omega
    simp only [Nat.zero_mul, Nat.zero_add, Nat.pow_zero, Nat.mul_one]
    rw [if_pos (by omega)]
    omega
  · rcases Nat.lt_or_ge n (2 ^ 53) with h53 | h53
    · have e1 : (k * 2 ^ 52 + n) / 2 ^ 52 = k + 1 := by omega
      have e2 : (k * 2 ^ 52 + n) % 2 ^ 52 = n - 2 ^ 52 := by omega
      rw [e1, e2, if_neg (by omega), Nat.add_sub_cancel, Nat.add_sub_cancel' hge]
    · obtain rfl : n = 2 ^ 53 := by omega
      have e1 : (k * 2 ^ 52 + 2 ^ 53) / 2 ^ 52 = k + 2 := by omega
      have e2 : (k * 2 ^ 52 + 2 ^ 53) % 2 ^ 52 = 0 := by omega
      rw [e1, e2, if_neg (by omega), Nat.add_zero, Nat.mul_comm (2 ^ 53)]
      rw [show k + 2 - 1 = k + 1 from rfl, Nat.pow_succ 2 k]
      omega

@[simp] theorem expo_infinity (neg : Bool) : expo (infinity neg) = 2047 := by cases neg <;> rfl

@[simp] theorem frac_infinity (neg : Bool) : frac (infinity neg) = 0 := by cases neg <;> rfl

@[simp] theorem sign_infinity (neg : Bool) : sign (infinity neg) = neg := by cases neg <;> rfl

@[simp] theorem isInf_infinity (neg : Bool) : isInf (infinity neg) = true := by cases neg <;> rfl

@[simp] theorem isNaN_infinity (neg : Bool) : isNaN (infinity neg) = false := by cases neg <;> rfl

@[simp] theorem isFinite_infinity (neg : Bool) : isFinite (infinity neg) = false := by cases neg <;> rfl

@[simp] theorem isZero_zero (neg : Bool) : isZero (zero neg) = true := by cases neg <;> rfl

@[simp] theorem sign_zero (neg : Bool) : sign (zero neg) = neg := by cases neg <;> rfl

/-- The exponent field of a NaN is all ones and its quiet bit is set, whatever the draw. -/
theorem toNat_quietNaN (d : BitVec 52) :
    (quietNaN d).toNat = d.toNat / 2 ^ 51 * 2 ^ 63 + 0xFFF * 2 ^ 51 + d.toNat % 2 ^ 51 := by
  have := d.isLt
  have h1 : d.toNat / 2 ^ 51 % 2 = d.toNat / 2 ^ 51 := by omega
  have h2 : d.toNat % 2 ^ 51 < 2 ^ 51 := Nat.mod_lt _ (by omega)
  simp only [quietNaN, BitVec.toNat_append, BitVec.extractLsb'_toNat, Nat.shiftRight_eq_div_pow,
    BitVec.toNat_ofNat, Nat.pow_zero, Nat.div_one]
  rw [← Nat.shiftLeft_add_eq_or_of_lt h2, ← Nat.shiftLeft_add_eq_or_of_lt (by decide)]
  simp only [Nat.shiftLeft_eq]
  omega

@[simp] theorem isNaN_quietNaN (d : BitVec 52) : isNaN (quietNaN d) = true := by
  have := d.isLt
  rw [isNaN, expo_eq, frac_eq, toNat_quietNaN]
  simp only [Bool.and_eq_true, beq_iff_eq, bne_iff_ne]
  omega

/-- The four classes of values exclude each other. -/
theorem isNaN_or_isInf_or_isFinite (x : F64) :
    (isNaN x = true ∧ isInf x = false ∧ isFinite x = false) ∨
      (isNaN x = false ∧ isInf x = true ∧ isFinite x = false) ∨
      (isNaN x = false ∧ isInf x = false ∧ isFinite x = true) := by
  have h : expo x < 2048 := (x.extractLsb' 52 11).isLt
  by_cases he : expo x = 2047
  · by_cases hf : frac x = 0 <;> simp [isNaN, isInf, isFinite, he, hf]
  · simp [isNaN, isInf, isFinite, he]
    omega

theorem isInf_eq_infinity {x : F64} (h : isInf x = true) : x = infinity (sign x) := by
  have hx := x.isLt
  simp only [isInf, Bool.and_eq_true, beq_iff_eq, expo_eq, frac_eq] at h
  apply BitVec.eq_of_toNat_eq
  rw [infinity, toNat_pack _ (by decide), sign_eq, infBits_eq]
  simp only [decide_eq_true_eq]
  split <;> omega

theorem isZero_iff (x : F64) : isZero x = true ↔ x = zero (sign x) := by
  have hx := x.isLt
  simp only [isZero, Bool.and_eq_true, beq_iff_eq, expo_eq, frac_eq]
  constructor
  · intro h
    apply BitVec.eq_of_toNat_eq
    rw [zero, toNat_pack _ (by decide), sign_eq]
    simp only [decide_eq_true_eq]
    split <;> omega
  · intro h
    rw [h, zero, toNat_pack _ (by decide)]
    cases sign x <;> simp

/-- A finite value is zero exactly when its magnitude is. -/
theorem mag_eq_zero_iff (x : F64) : mag x = 0 ↔ isZero x = true := by
  simp only [mag, isZero, Bool.and_eq_true, beq_iff_eq]
  split
  · simp [*]
  · simp [*]

end Sys2Proof.Machine.Binary64
end

