-- ==== Sys2Proof/Laws/State.lean ====
section
/-! SUPPORT. One lemma for each field of the state and each update of it, true by definition, so that no later
proof unfolds a record update. -/

namespace Sys2Proof.Machine

/-! ### raise -/

@[simp] theorem raise_pstate (f : CmdFault) (s : State) : (raise f s).pstate = s.pstate := rfl
@[simp] theorem raise_status (f : CmdFault) (s : State) : (raise f s).status = f.status := rfl
@[simp] theorem raise_rkind (f : CmdFault) (s : State) : (raise f s).rkind = .none := rfl
@[simp] theorem raise_result (f : CmdFault) (s : State) : (raise f s).result = none := rfl
@[simp] theorem raise_errinfo (f : CmdFault) (s : State) : (raise f s).errinfo = f.info := rfl
@[simp] theorem raise_sensor (f : CmdFault) (s : State) : (raise f s).sensor = s.sensor := rfl
@[simp] theorem raise_waiting (f : CmdFault) (s : State) : (raise f s).waiting = s.waiting := rfl
@[simp] theorem raise_cmds (f : CmdFault) (s : State) : (raise f s).cmds = s.cmds := rfl
@[simp] theorem raise_answers (f : CmdFault) (s : State) : (raise f s).answers = s.answers := rfl
@[simp] theorem raise_draws (f : CmdFault) (s : State) : (raise f s).draws = s.draws := rfl
@[simp] theorem raise_bus (f : CmdFault) (s : State) : (raise f s).bus = s.bus := rfl

/-! ### complete -/

@[simp] theorem complete_pstate (k : RKind) (v : Option F64) (s : State) : (complete k v s).pstate = s.pstate := rfl
@[simp] theorem complete_status (k : RKind) (v : Option F64) (s : State) : (complete k v s).status = .ok := rfl
@[simp] theorem complete_rkind (k : RKind) (v : Option F64) (s : State) : (complete k v s).rkind = k := rfl
@[simp] theorem complete_result (k : RKind) (v : Option F64) (s : State) : (complete k v s).result = v := rfl
@[simp] theorem complete_errinfo (k : RKind) (v : Option F64) (s : State) : (complete k v s).errinfo = none := rfl
@[simp] theorem complete_sensor (k : RKind) (v : Option F64) (s : State) : (complete k v s).sensor = s.sensor := rfl
@[simp] theorem complete_waiting (k : RKind) (v : Option F64) (s : State) : (complete k v s).waiting = s.waiting := rfl
@[simp] theorem complete_cmds (k : RKind) (v : Option F64) (s : State) : (complete k v s).cmds = s.cmds := rfl
@[simp] theorem complete_answers (k : RKind) (v : Option F64) (s : State) : (complete k v s).answers = s.answers := rfl
@[simp] theorem complete_draws (k : RKind) (v : Option F64) (s : State) : (complete k v s).draws = s.draws := rfl
@[simp] theorem complete_bus (k : RKind) (v : Option F64) (s : State) : (complete k v s).bus = s.bus := rfl

/-! ### setPState -/

@[simp] theorem setPState_pstate (p : PState) (s : State) : (setPState p s).pstate = p := rfl
@[simp] theorem setPState_status (p : PState) (s : State) : (setPState p s).status = s.status := rfl
@[simp] theorem setPState_rkind (p : PState) (s : State) : (setPState p s).rkind = s.rkind := rfl
@[simp] theorem setPState_result (p : PState) (s : State) : (setPState p s).result = s.result := rfl
@[simp] theorem setPState_errinfo (p : PState) (s : State) : (setPState p s).errinfo = s.errinfo := rfl
@[simp] theorem setPState_sensor (p : PState) (s : State) : (setPState p s).sensor = s.sensor := rfl
@[simp] theorem setPState_waiting (p : PState) (s : State) : (setPState p s).waiting = s.waiting := rfl
@[simp] theorem setPState_cmds (p : PState) (s : State) : (setPState p s).cmds = s.cmds := rfl
@[simp] theorem setPState_answers (p : PState) (s : State) : (setPState p s).answers = s.answers := rfl
@[simp] theorem setPState_draws (p : PState) (s : State) : (setPState p s).draws = s.draws := rfl
@[simp] theorem setPState_bus (p : PState) (s : State) : (setPState p s).bus = s.bus := rfl

/-! ### transact -/

@[simp] theorem transact_pstate (q : Request) (a : Response) (v : Sensor) (s : State) : (transact q a v s).pstate = s.pstate := rfl
@[simp] theorem transact_status (q : Request) (a : Response) (v : Sensor) (s : State) : (transact q a v s).status = s.status := rfl
@[simp] theorem transact_rkind (q : Request) (a : Response) (v : Sensor) (s : State) : (transact q a v s).rkind = s.rkind := rfl
@[simp] theorem transact_result (q : Request) (a : Response) (v : Sensor) (s : State) : (transact q a v s).result = s.result := rfl
@[simp] theorem transact_errinfo (q : Request) (a : Response) (v : Sensor) (s : State) : (transact q a v s).errinfo = s.errinfo := rfl
@[simp] theorem transact_sensor (q : Request) (a : Response) (v : Sensor) (s : State) : (transact q a v s).sensor = v := rfl
@[simp] theorem transact_waiting (q : Request) (a : Response) (v : Sensor) (s : State) : (transact q a v s).waiting = s.waiting := rfl
@[simp] theorem transact_cmds (q : Request) (a : Response) (v : Sensor) (s : State) : (transact q a v s).cmds = s.cmds := rfl
@[simp] theorem transact_answers (q : Request) (a : Response) (v : Sensor) (s : State) : (transact q a v s).answers = s.answers.tail := rfl
@[simp] theorem transact_draws (q : Request) (a : Response) (v : Sensor) (s : State) : (transact q a v s).draws = s.draws + 1 := rfl
@[simp] theorem transact_bus (q : Request) (a : Response) (v : Sensor) (s : State) : (transact q a v s).bus = s.bus ++ [{ req := q, res := a }] := rfl

/-! ### hang -/

@[simp] theorem hang_pstate (s : State) : (hang s).pstate = s.pstate := rfl
@[simp] theorem hang_status (s : State) : (hang s).status = s.status := rfl
@[simp] theorem hang_rkind (s : State) : (hang s).rkind = s.rkind := rfl
@[simp] theorem hang_result (s : State) : (hang s).result = s.result := rfl
@[simp] theorem hang_errinfo (s : State) : (hang s).errinfo = s.errinfo := rfl
@[simp] theorem hang_sensor (s : State) : (hang s).sensor = s.sensor := rfl
@[simp] theorem hang_waiting (s : State) : (hang s).waiting = true := rfl
@[simp] theorem hang_cmds (s : State) : (hang s).cmds = s.cmds := rfl
@[simp] theorem hang_answers (s : State) : (hang s).answers = s.answers := rfl
@[simp] theorem hang_draws (s : State) : (hang s).draws = s.draws := rfl
@[simp] theorem hang_bus (s : State) : (hang s).bus = s.bus := rfl

/-! ### afterBus -/

@[simp] theorem afterBus_pstate (ts : List Transfer) (v : Sensor) (s : State) : (afterBus ts v s).pstate = s.pstate := rfl
@[simp] theorem afterBus_status (ts : List Transfer) (v : Sensor) (s : State) : (afterBus ts v s).status = s.status := rfl
@[simp] theorem afterBus_rkind (ts : List Transfer) (v : Sensor) (s : State) : (afterBus ts v s).rkind = s.rkind := rfl
@[simp] theorem afterBus_result (ts : List Transfer) (v : Sensor) (s : State) : (afterBus ts v s).result = s.result := rfl
@[simp] theorem afterBus_errinfo (ts : List Transfer) (v : Sensor) (s : State) : (afterBus ts v s).errinfo = s.errinfo := rfl
@[simp] theorem afterBus_sensor (ts : List Transfer) (v : Sensor) (s : State) : (afterBus ts v s).sensor = v := rfl
@[simp] theorem afterBus_waiting (ts : List Transfer) (v : Sensor) (s : State) : (afterBus ts v s).waiting = s.waiting := rfl
@[simp] theorem afterBus_cmds (ts : List Transfer) (v : Sensor) (s : State) : (afterBus ts v s).cmds = s.cmds := rfl
@[simp] theorem afterBus_answers (ts : List Transfer) (v : Sensor) (s : State) : (afterBus ts v s).answers = s.answers.drop ts.length := rfl
@[simp] theorem afterBus_draws (ts : List Transfer) (v : Sensor) (s : State) : (afterBus ts v s).draws = s.draws + ts.length := rfl
@[simp] theorem afterBus_bus (ts : List Transfer) (v : Sensor) (s : State) : (afterBus ts v s).bus = s.bus ++ ts := rfl

/-! ### issueFirst -/

@[simp] theorem issueFirst_pstate (w : Word) (s : State) : (issueFirst w s).pstate = s.pstate := rfl
@[simp] theorem issueFirst_status (w : Word) (s : State) : (issueFirst w s).status = s.status := rfl
@[simp] theorem issueFirst_rkind (w : Word) (s : State) : (issueFirst w s).rkind = s.rkind := rfl
@[simp] theorem issueFirst_result (w : Word) (s : State) : (issueFirst w s).result = s.result := rfl
@[simp] theorem issueFirst_errinfo (w : Word) (s : State) : (issueFirst w s).errinfo = s.errinfo := rfl
@[simp] theorem issueFirst_sensor (w : Word) (s : State) : (issueFirst w s).sensor = s.sensor := rfl
@[simp] theorem issueFirst_waiting (w : Word) (s : State) : (issueFirst w s).waiting = false := rfl
@[simp] theorem issueFirst_cmds (w : Word) (s : State) : (issueFirst w s).cmds = w :: s.cmds := rfl
@[simp] theorem issueFirst_answers (w : Word) (s : State) : (issueFirst w s).answers = s.answers := rfl
@[simp] theorem issueFirst_draws (w : Word) (s : State) : (issueFirst w s).draws = s.draws := rfl
@[simp] theorem issueFirst_bus (w : Word) (s : State) : (issueFirst w s).bus = s.bus := rfl

end Sys2Proof.Machine
end

