-- ==== Sys2Proof/Laws/Ops.lean ====
section
/-! SUPPORT. For each shared operation, what it can do, said once. -/

namespace Sys2Proof.Machine

/-! ### Bytes and registers -/

/-- R53, R54: the two bytes of a word, received in the order sent, make the word again. -/
@[simp] theorem wordOfBytes_bytes (v : Word) : wordOfBytes (firstByte v) (secondByte v) = v := by
  apply BitVec.eq_of_toNat_eq
  have := v.isLt
  simp only [wordOfBytes, firstByte, secondByte, BitVec.toNat_append, BitVec.extractLsb'_toNat,
    Nat.shiftRight_eq_div_pow]
  rw [← Nat.shiftLeft_add_eq_or_of_lt (by omega), Nat.shiftLeft_eq]
  omega

/-- R51: the register at a register's address is that register. -/
@[simp] theorem regAt_addr (r : Reg) : regAt r.addr = some r := by cases r <;> rfl

/-- R61, R66: after its own move the sensor holds what the read shows, and keeps its other registers. -/
theorem Sensor.move_get_of_ne (v : Sensor) (r q : Reg) (draw : Word) (h : q ≠ r) :
    (v.move r draw).get q = v.get q := by
  cases r <;> cases q <;> simp_all [Sensor.move, Sensor.get]

@[simp] theorem Sensor.move_manid (v : Sensor) (r : Reg) (draw : Word) :
    (v.move r draw).manid = v.manid := by cases r <;> rfl

@[simp] theorem Sensor.move_devid (v : Sensor) (r : Reg) (draw : Word) :
    (v.move r draw).devid = v.devid := by cases r <;> rfl

@[simp] theorem Sensor.write_manid (v : Sensor) (w draw : Word) : (v.write w draw).manid = v.manid := rfl

@[simp] theorem Sensor.write_devid (v : Sensor) (w draw : Word) : (v.write w draw).devid = v.devid := rfl

@[simp] theorem Sensor.spoil_manid (v : Sensor) (left : Word) : (v.spoil left).manid = v.manid := rfl

@[simp] theorem Sensor.spoil_devid (v : Sensor) (left : Word) : (v.spoil left).devid = v.devid := rfl

/-! ### Answers -/

/-- Each transaction uses up one answer. -/
@[simp] theorem answerAt_transact (q : Request) (a : Response) (v : Sensor) (s : State) (k : Nat) :
    answerAt (transact q a v s) k = answerAt s (k + 1) := by
  cases h : s.answers <;> simp [answerAt, h, Nat.add_assoc, Nat.add_comm 1 k]

@[simp] theorem answerAt_setPState (p : PState) (s : State) (k : Nat) :
    answerAt (setPState p s) k = answerAt s k := rfl

/-- A listed answer is the answer. -/
theorem answerAt_listed (s : State) (k : Nat) (a : Answer) (h : s.answers[k]? = some a) :
    answerAt s k = a := by simp [answerAt, h]

/-! ### The end of a command -/

@[simp] theorem returnNone_eq (s : State) : returnNone s = complete .none none s := rfl

@[simp] theorem returnBool_eq (b : Bool) (s : State) :
    returnBool b s = complete .bool (some (resultOfBool b)) s := rfl

@[simp] theorem returnInt16_eq (w : Word) (s : State) :
    returnInt16 w s = complete .int16 (some (resultOfInt16 w)) s := rfl

@[simp] theorem returnF64_eq (x : F64) (s : State) : returnF64 x s = complete .f64 (some x) s := rfl

/-! ### MemRead -/

section
variable {r : Reg} {s : State} {next : Word → State → State}

/-- R54: a read that succeeds goes on with the register's word. -/
theorem memRead_ok {draw : Word} (h : answerAt s 0 = .ok draw) :
    memRead r s next =
      next ((s.sensor.move r draw).get r)
        (transact (readTransfer r ((s.sensor.move r draw).get r)).req
          (readTransfer r ((s.sensor.move r draw).get r)).res (s.sensor.move r draw) s) := by
  simp [memRead, h, readTransfer]

/-- R54, R172: a read that fails raises TransportError with the transport's value and changes no register of
the sensor. -/
theorem memRead_fail {e : TransportErr} {left : Word} (h : answerAt s 0 = .fail e left) :
    memRead r s next =
      raise (.transportError e) (transact (failedRead r e).req (failedRead r e).res s.sensor s) := by
  simp [memRead, h, failedRead]

/-- R212: a read that is never answered leaves the converter waiting. -/
theorem memRead_never {left : Word} (h : answerAt s 0 = .never left) :
    memRead r s next = hang (transact (.read r.addr) .pending s.sensor s) := by
  simp [memRead, h]

/-- Everything a read can do: a property of states that holds in each of the three outcomes holds of it. -/
theorem memRead_cases (P : State → Prop)
    (hok : ∀ draw, answerAt s 0 = .ok draw →
      P (next ((s.sensor.move r draw).get r)
        (transact (.read r.addr)
          (.data (firstByte ((s.sensor.move r draw).get r)) (secondByte ((s.sensor.move r draw).get r)))
          (s.sensor.move r draw) s)))
    (hfail : ∀ e left, answerAt s 0 = .fail e left →
      P (raise (.transportError e) (transact (.read r.addr) (.failed e) s.sensor s)))
    (hnever : ∀ left, answerAt s 0 = .never left →
      P (hang (transact (.read r.addr) .pending s.sensor s))) :
    P (memRead r s next) := by
  cases h : answerAt s 0 with
  | ok draw => simpa [memRead, h] using hok draw h
  | fail e left => simpa [memRead, h] using hfail e left h
  | never left => simpa [memRead, h] using hnever left h

end

/-! ### MemWrite -/

section
variable {w : Word} {s : State} {next : State → State}

/-- R55: a write that succeeds. -/
theorem memWrite_ok {draw : Word} (h : answerAt s 0 = .ok draw) :
    memWrite w s next =
      next (transact (writeTransfer w).req (writeTransfer w).res (s.sensor.write w draw) s) := by
  simp [memWrite, h, writeTransfer]

/-- R55, R172: a write that fails leaves any value in CONFIG. -/
theorem memWrite_fail {e : TransportErr} {left : Word} (h : answerAt s 0 = .fail e left) :
    memWrite w s next =
      raise (.transportError e)
        (transact (failedWrite w e).req (failedWrite w e).res (s.sensor.spoil left) s) := by
  simp [memWrite, h, failedWrite]

/-- R212: a write that is never answered leaves the converter waiting. -/
theorem memWrite_never {left : Word} (h : answerAt s 0 = .never left) :
    memWrite w s next = hang (transact (configWrite w) .pending (s.sensor.spoil left) s) := by
  simp [memWrite, h]

/-- Everything a write can do. -/
theorem memWrite_cases (P : State → Prop)
    (hok : ∀ draw, answerAt s 0 = .ok draw →
      P (next (transact (configWrite w) .done (s.sensor.write w draw) s)))
    (hfail : ∀ e left, answerAt s 0 = .fail e left →
      P (raise (.transportError e) (transact (configWrite w) (.failed e) (s.sensor.spoil left) s)))
    (hnever : ∀ left, answerAt s 0 = .never left →
      P (hang (transact (configWrite w) .pending (s.sensor.spoil left) s))) :
    P (memWrite w s next) := by
  cases h : answerAt s 0 with
  | ok draw => simpa [memWrite, h] using hok draw h
  | fail e left => simpa [memWrite, h] using hfail e left h
  | never left => simpa [memWrite, h] using hnever left h

end

/-! ### Device accesses by address (R52) -/

theorem deviceRead_mapped (r : Reg) (s : State) (next : Word → State → State) :
    deviceRead r.addr s next = .next (memRead r s next) := by simp [deviceRead]

theorem deviceWrite_config (w : Word) (s : State) (next : State → State) :
    deviceWrite Reg.config.addr w s next = .next (memWrite w s next) := by simp [deviceWrite]

/-! ### The command port and the step -/

theorem fetch_cons (w : Word) (rest : List Word) (s : State) (h : s.cmds = w :: rest) :
    fetch s = some (w, { s with cmds := rest }) := by simp [fetch, h]

theorem fetch_nil (s : State) (h : s.cmds = []) : fetch s = none := by simp [fetch, h]

/-- Everything a step can do, said once: it stops on a converter that waits, stays where it is with no
command left, raises IllegalCommand on an illegal word, or runs the command. -/
theorem step_cases {s t : State} (h : step s = .next t) :
    s.waiting = false ∧
      ((s.cmds = [] ∧ t = s) ∨
        ∃ w rest, s.cmds = w :: rest ∧
          ((∃ e, decode w = .error e ∧ t = raise .illegalCommand { s with cmds := rest }) ∨
            ∃ i, decode w = .ok i ∧ exec i { s with cmds := rest } = .next t)) := by
  by_cases hw : s.waiting = true
  · simp [step, hw] at h
  · refine ⟨by simpa using hw, ?_⟩
    cases hc : s.cmds with
    | nil =>
      rw [step, if_neg hw, fetch_nil s hc] at h
      exact .inl ⟨rfl, by simpa using h.symm⟩
    | cons w rest =>
      refine .inr ⟨w, rest, rfl, ?_⟩
      rw [step, if_neg hw, fetch_cons w rest s hc] at h
      cases hd : decode w with
      | error e => exact .inl ⟨e, rfl, by simpa [issue, hd] using h.symm⟩
      | ok i => exact .inr ⟨i, rfl, by simpa [issue, hd] using h⟩

end Sys2Proof.Machine
end

