-- ==== Sys2Proof/Laws/PerInstr.lean ====
section
/-! SUPPORT. Statements made of each command as syntax, one lemma for each constructor. -/

namespace Sys2Proof.Laws

open Sys2Proof.Machine

/-- The word of a well-formed command fits the command's row of the opcode table (30_encoding.md R82) and
has its operation code in bits 15:8 and its operand in bits 7:0 (R80). -/
def FitsRow.Statement (i : Instr) : Prop :=
  i.WellFormed →
    (opcodeRow i).fits (encode i) = true ∧ opField (encode i) = opcode i ∧ immField (encode i) = immediate i

theorem FitsRow.fields (op imm : Byte) :
    opField (op ++ imm) = op ∧ immField (op ++ imm) = imm := by
  constructor
  · apply BitVec.eq_of_toNat_eq
    have := op.isLt
    have := imm.isLt
    simp only [opField, BitVec.extractLsb'_toNat, BitVec.toNat_append, Nat.shiftRight_eq_div_pow]
    rw [← Nat.shiftLeft_add_eq_or_of_lt imm.isLt, Nat.shiftLeft_eq]
    omega
  · apply BitVec.eq_of_toNat_eq
    have := op.isLt
    have := imm.isLt
    simp only [immField, BitVec.extractLsb'_toNat, BitVec.toNat_append, Nat.shiftRight_zero]
    rw [← Nat.shiftLeft_add_eq_or_of_lt imm.isLt, Nat.shiftLeft_eq]
    omega

theorem FitsRow.init (rate : Nat) : FitsRow.Statement (.init rate) := by
  intro _
  refine ⟨?_, FitsRow.fields _ _⟩
  simp only [OpcodeRow.fits, opcodeRow, encode, opcode, immediate, beq_iff_eq]
  generalize BitVec.ofNat 8 rate = imm
  revert imm
  decide

theorem FitsRow.sleep : FitsRow.Statement .sleep := fun _ => by decide

theorem FitsRow.wake : FitsRow.Statement .wake := fun _ => by decide

theorem FitsRow.rdvobj : FitsRow.Statement .rdvobj := fun _ => by decide

theorem FitsRow.rdtamb : FitsRow.Statement .rdtamb := fun _ => by decide

theorem FitsRow.rddiec : FitsRow.Statement .rddiec := fun _ => by decide

theorem FitsRow.rdobjc : FitsRow.Statement .rdobjc := fun _ => by decide

end Sys2Proof.Laws
end

