-- ==== Sys2Proof/Laws/Rounding.lean ====
section
/-! SUPPORT. What the rounding to binary64 can do, said once (42_conversion.md R141), and the value with the
opposite sign. -/

namespace Sys2Proof.Machine.Binary64

theorem nearestEven_bounds (num den : Nat) :
    num / den ≤ nearestEven num den ∧ nearestEven num den ≤ num / den + 1 := by
  simp only [nearestEven]
  repeat' split
  all_goals omega

/-- The unit in the last place leaves a significand of 53 bits, but where it is the least unit. -/
theorem ulpExp_significand (num den : Nat) :
    num / (den * 2 ^ ulpExp num den) < 2 ^ 53 ∧
      (ulpExp num den = 0 ∨ 2 ^ 52 ≤ num / (den * 2 ^ ulpExp num den)) := by
  rw [← Nat.div_div_eq_div_mul]
  unfold ulpExp
  generalize num / den = q
  split
  · simp
    omega
  · have h1 : 2 ^ q.log2 ≤ q := Nat.log2_self_le (by omega)
    have h2 : q < 2 ^ (q.log2 + 1) := Nat.lt_log2_self
    have h3 : 53 ≤ q.log2 := by
      rw [Nat.le_log2 (by omega)]
      omega
    constructor
    · rw [Nat.div_lt_iff_lt_mul (by positivity), ← Nat.pow_add]
      rwa [show 53 + (q.log2 - 52) = q.log2 + 1 by omega]
    · right
      rw [Nat.le_div_iff_mul_le (by positivity), ← Nat.pow_add]
      rwa [show 52 + (q.log2 - 52) = q.log2 by omega]

/-- A finite rounding, as a significand `n` and the exponent `k` of its unit. -/
theorem roundTo_finite {neg : Bool} {num den : Nat} (h : isFinite (roundTo neg num den) = true) :
    ∃ k n, k = ulpExp num den ∧ n = nearestEven num (den * 2 ^ k) ∧ k * 2 ^ 52 + n < infBits ∧
      n ≤ 2 ^ 53 ∧ (k = 0 ∨ 2 ^ 52 ≤ n) ∧ roundTo neg num den = pack neg (k * 2 ^ 52 + n) := by
  have hn := nearestEven_bounds num (den * 2 ^ ulpExp num den)
  have hk := ulpExp_significand num den
  refine ⟨_, _, rfl, rfl, ?_, by omega, by omega, ?_⟩
  · by_contra hc
    rw [roundTo, if_pos (by simpa using hc)] at h
    simp at h
  · rw [roundTo, if_neg]
    intro hc
    rw [roundTo, if_pos hc] at h
    simp at h

/-- A finite value, as a significand `n` and the exponent `k` of its unit. -/
theorem mag_significand (y : F64) :
    ∃ k n, mag y = n * 2 ^ k ∧ n < 2 ^ 53 ∧ (k = 0 ∨ 2 ^ 52 ≤ n) := by
  have h : frac y < 2 ^ 52 := (y.extractLsb' 0 52).isLt
  unfold mag
  split
  · exact ⟨0, frac y, by simp, by omega, .inl rfl⟩
  · exact ⟨expo y - 1, 2 ^ 52 + frac y, rfl, by omega, by omega⟩

@[simp] theorem sign_roundTo (neg : Bool) (num den : Nat) : sign (roundTo neg num den) = neg := by
  simp only [roundTo]
  split
  · simp
  · exact sign_pack _ (by rw [infBits_eq] at *; omega)

@[simp] theorem isNaN_roundTo (neg : Bool) (num den : Nat) : isNaN (roundTo neg num den) = false := by
  simp only [roundTo]
  split
  · simp
  · have := isFinite_pack neg (Nat.lt_of_not_le ‹_›)
    simp only [isFinite, decide_eq_true_eq] at this
    simp only [isNaN, Bool.and_eq_false_iff, beq_eq_false_iff_ne]
    omega

/-! ### The opposite value -/

@[simp] theorem sign_negate (x : F64) : sign (negate x) = !sign x := by simp [sign, negate]

@[simp] theorem expo_negate (x : F64) : expo (negate x) = expo x := by
  simp only [expo, negate, BitVec.extractLsb'_xor]
  simp

@[simp] theorem frac_negate (x : F64) : frac (negate x) = frac x := by
  simp only [frac, negate, BitVec.extractLsb'_xor]
  simp

@[simp] theorem value_negate (x : F64) : value (negate x) = -value x := by
  simp only [value, mag, expo_negate, frac_negate, sign_negate]
  cases sign x <;> simp

@[simp] theorem isFinite_negate (x : F64) : isFinite (negate x) = isFinite x := by simp [isFinite]

theorem abs_value (x : F64) : |value x| = mag x := by
  unfold value
  split <;> simp

/-! ### The primitives on finite operands -/

theorem one64_pos : 0 < one64 := by
  unfold one64
  positivity

theorem isNaN_of_isFinite {x : F64} (h : isFinite x = true) : isNaN x = false ∧ isInf x = false := by
  simp only [isFinite, decide_eq_true_eq] at h
  simp only [isNaN, isInf, Bool.and_eq_false_iff, beq_eq_false_iff_ne]
  omega

theorem fadd_of_isFinite (d : BitVec 52) {a b : F64} (ha : isFinite a = true) (hb : isFinite b = true) :
    fadd d a b =
      if isZero a && isZero b then zero (sign a && sign b)
      else if value a + value b = 0 then zero false
      else roundTo (decide (value a + value b < 0)) (value a + value b).natAbs 1 := by
  simp [fadd, isNaN_of_isFinite ha, isNaN_of_isFinite hb]

theorem fmul_of_isFinite (d : BitVec 52) {a b : F64} (ha : isFinite a = true) (hb : isFinite b = true) :
    fmul d a b = roundTo (sign a != sign b) (mag a * mag b) one64 := by
  simp [fmul, isNaN_of_isFinite ha, isNaN_of_isFinite hb]

theorem fdiv_of_isFinite (d : BitVec 52) {a b : F64} (ha : isFinite a = true) (hb : isFinite b = true)
    (hz : isZero b = false) : fdiv d a b = roundTo (sign a != sign b) (mag a * one64) (mag b) := by
  simp [fdiv, isNaN_of_isFinite ha, isNaN_of_isFinite hb, hz]

end Sys2Proof.Machine.Binary64
end

