-- ==== Sys2Proof/Laws/Step.lean ====
section
/-! SUPPORT. What a command and a step can do, said once as an induction over the shared operations: `M` holds
between the transactions of a command, `E` at its end. -/

namespace Sys2Proof.Machine

/-- The result formats of R24 fit their kinds. -/
@[simp] theorem resultFits_bool (b : Bool) : resultFits .bool (some (resultOfBool b)) = true := by
  cases b <;> rfl

@[simp] theorem resultFits_int16 (w : Word) : resultFits .int16 (some (resultOfInt16 w)) = true := by
  have h : BitVec.extractLsb' 0 16 (w.signExtend 64) = w := by
    ext i hi
    rw [BitVec.getElem_extractLsb', Nat.zero_add, BitVec.getLsbD_signExtend]
    simp [hi]
    omega
  simp [resultFits, resultOfInt16, h]

@[simp] theorem resultFits_f64 (x : F64) : resultFits .f64 (some x) = true := rfl

@[simp] theorem resultFits_none : resultFits .none none = true := rfl

section
variable {M E : State → Prop}

/-- A read inside a command: if it keeps `M` when it succeeds and ends in `E` when it does not, the command
ends in `E` whenever what follows does. -/
theorem memRead_keeps {r : Reg} {s : State} {next : Word → State → State} (hs : M s)
    (hok : ∀ s draw, M s → M (transact (.read r.addr)
      (.data (firstByte ((s.sensor.move r draw).get r)) (secondByte ((s.sensor.move r draw).get r)))
      (s.sensor.move r draw) s))
    (hfail : ∀ s e, M s → E (raise (.transportError e) (transact (.read r.addr) (.failed e) s.sensor s)))
    (hnever : ∀ s, M s → E (hang (transact (.read r.addr) .pending s.sensor s)))
    (hnext : ∀ w s, M s → E (next w s)) : E (memRead r s next) :=
  memRead_cases E (fun draw _ => hnext _ _ (hok s draw hs)) (fun e _ _ => hfail s e hs)
    (fun _ _ => hnever s hs)

/-- A write inside a command, in the same way. -/
theorem memWrite_keeps {w : Word} {s : State} {next : State → State} (hs : M s)
    (hok : ∀ s draw, M s → M (transact (configWrite w) .done (s.sensor.write w draw) s))
    (hfail : ∀ s e left, M s →
      E (raise (.transportError e) (transact (configWrite w) (.failed e) (s.sensor.spoil left) s)))
    (hnever : ∀ s left, M s → E (hang (transact (configWrite w) .pending (s.sensor.spoil left) s)))
    (hnext : ∀ s, M s → E (next s)) : E (memWrite w s next) :=
  memWrite_cases E (fun draw _ => hnext _ (hok s draw hs)) (fun e left _ => hfail s e left hs)
    (fun left _ => hnever s left hs)

/-- Everything a command can do: from a state with `M` it ends in one with `E`, if each shared operation it is
made of keeps the two. -/
theorem exec_keeps
    (hread : ∀ (r : Reg) s draw, M s → M (transact (.read r.addr)
      (.data (firstByte ((s.sensor.move r draw).get r)) (secondByte ((s.sensor.move r draw).get r)))
      (s.sensor.move r draw) s))
    (hreadFail : ∀ (r : Reg) s e, M s →
      E (raise (.transportError e) (transact (.read r.addr) (.failed e) s.sensor s)))
    (hreadNever : ∀ (r : Reg) s, M s → E (hang (transact (.read r.addr) .pending s.sensor s)))
    (hwrite : ∀ w s draw, M s → M (transact (configWrite w) .done (s.sensor.write w draw) s))
    (hwriteFail : ∀ w s e left, M s →
      E (raise (.transportError e) (transact (configWrite w) (.failed e) (s.sensor.spoil left) s)))
    (hwriteNever : ∀ w s left, M s →
      E (hang (transact (configWrite w) .pending (s.sensor.spoil left) s)))
    (hpower : ∀ p s, M s → M (setPState p s))
    (hcomplete : ∀ k v s, resultFits k v = true → M s → E (complete k v s))
    (hrefuse : ∀ s, M s → E (raise .invalidArgument s))
    {i : Instr} {s t : State} (hs : M s) (h : exec i s = .next t) : E t := by
  have hr := fun r s next (hs : M s) =>
    memRead_keeps (M := M) (E := E) (r := r) (next := next) hs (hread r) (hreadFail r) (hreadNever r)
  have hw := fun w s next (hs : M s) =>
    memWrite_keeps (M := M) (E := E) (w := w) (next := next) hs (hwrite w) (hwriteFail w) (hwriteNever w)
  cases i with
  | init rate =>
    simp only [exec, execInit, Host.Outcome.next.injEq] at h
    subst h
    cases crmask rate with
    | none => exact hrefuse s hs
    | some m =>
      exact hw _ _ _ hs fun _ h0 => hr _ _ _ (hpower _ _ h0) fun _ _ h1 => hr _ _ _ h1 fun _ _ h2 =>
        hcomplete _ _ _ (by simp) h2
  | sleep =>
    simp only [exec, execSleep, Host.Outcome.next.injEq] at h
    subst h
    exact hr _ _ _ hs fun _ _ h0 => hw _ _ _ h0 fun _ h1 => hcomplete _ _ _ (by simp) (hpower _ _ h1)
  | wake =>
    simp only [exec, execWake, Host.Outcome.next.injEq] at h
    subst h
    exact hr _ _ _ hs fun _ _ h0 => hw _ _ _ h0 fun _ h1 => hcomplete _ _ _ (by simp) (hpower _ _ h1)
  | rdvobj =>
    simp only [exec, execRdvobj, Host.Outcome.next.injEq] at h
    subst h
    exact hr _ _ _ hs fun _ _ h0 => hcomplete _ _ _ (by simp) h0
  | rdtamb =>
    simp only [exec, execRdtamb, Host.Outcome.next.injEq] at h
    subst h
    exact hr _ _ _ hs fun _ _ h0 => hcomplete _ _ _ (by simp) h0
  | rddiec =>
    simp only [exec, execRddiec, Host.Outcome.next.injEq] at h
    subst h
    exact hr _ _ _ hs fun _ _ h0 => hcomplete _ _ _ (by simp) h0
  | rdobjc =>
    simp only [exec, execRdobjc, Host.Outcome.next.injEq] at h
    subst h
    exact hr _ _ _ hs fun _ _ h0 => hr _ _ _ h0 fun _ _ h1 => hcomplete _ _ _ (by simp) h1

end

/-- A relation between the states before and after a step: it holds if it holds of an idle step, of
IllegalCommand and of every command, and does not look at the commands still to issue. -/
theorem step_keeps {R : State → State → Prop} (hidle : ∀ s, R s s)
    (hcmds : ∀ s t rest, R { s with cmds := rest } t → R s t)
    (hillegal : ∀ s, R s (raise .illegalCommand s))
    (hexec : ∀ i s t, s.waiting = false → exec i s = .next t → R s t)
    {s t : State} (h : step s = .next t) : R s t := by
  obtain ⟨hw, ⟨_, rfl⟩ | ⟨_, rest, _, ⟨_, _, rfl⟩ | ⟨i, _, he⟩⟩⟩ := step_cases h
  · exact hidle _
  · exact hcmds _ _ rest (hillegal _)
  · exact hcmds _ _ rest (hexec i _ _ hw he)

end Sys2Proof.Machine
end

