-- ==== Sys2Proof/Tests/Slice0.lean ====
section
/-! SUPPORT. Tests. Every expected value is the spec's: S1 to S8 and V1 to V85 are the examples and vectors of
95_test_vectors.md. `test_…` checks the model, `witness_…` meets the hypotheses of the obligation it names. -/

namespace Sys2Proof.Tests

open Sys2Proof Sys2Proof.Machine Sys2Proof.Machine.Binary64

/-! ### A small bench -/

/-- The expected sensor with a CONFIG word, behind a transport with the given answers. -/
def bench (config : Word) (answers : List Answer) : State :=
  { State.reset with
    sensor := { vobj := 0#16, tamb := 0#16, config := config, manid := 0x5449#16, devid := 0x0067#16 }
    answers := answers }

/-- The same bench with another sensor's identity. -/
def otherSensor (manid devid : Word) (answers : List Answer) : State :=
  { State.reset with
    sensor := { vobj := 0#16, tamb := 0#16, config := 0#16, manid := manid, devid := devid }
    answers := answers }

/-- Three transactions that succeed. -/
def threeOk : List Answer := [.ok 0#16, .ok 0#16, .ok 0#16]

/-- An error value of the transport. -/
def e1 : TransportErr := { tag := 7 }

/-- The state a command leaves; a stop leaves `State.reset`. -/
def after (o : Outcome) : State :=
  match o with
  | .next s => s
  | .fault _ => State.reset
  | .refused _ => State.reset

/-- The draws of a test: which NaN does not matter. -/
def noNan : Nat → BitVec 52 := fun _ => 0#52

/-! ### Well-formed commands (R81) -/

theorem test_init_256_is_ill_formed : ¬(Instr.init 256).WellFormed := by decide

theorem test_init_255_is_well_formed : (Instr.init 255).WellFormed := by decide

theorem test_sleep_is_well_formed : Instr.sleep.WellFormed := by decide

/-! ### Decoding (R80, R82, V1 to V9). The words are written bit by bit: `op`, then `imm8`. -/

theorem test_decode_init : decode 0b00000001_00010000#16 = .ok (.init 16) := by decide

theorem test_decode_init_255 : decode 0b00000001_11111111#16 = .ok (.init 255) := by decide

theorem test_decode_sleep : decode 0b00000010_00000000#16 = .ok .sleep := by decide

theorem test_decode_wake : decode 0b00000011_00000000#16 = .ok .wake := by decide

theorem test_decode_rdvobj : decode 0b00000100_00000000#16 = .ok .rdvobj := by decide

theorem test_decode_rdtamb : decode 0b00000101_00000000#16 = .ok .rdtamb := by decide

theorem test_decode_rddiec : decode 0b00000110_00000000#16 = .ok .rddiec := by decide

theorem test_decode_rdobjc : decode 0b00000111_00000000#16 = .ok .rdobjc := by decide

/-- V8, V9. -/
theorem test_decode_illegal_words :
    ([0x0000#16, 0x0800#16, 0xFF00#16, 0xFFFF#16, 0x0010#16, 0x0201#16, 0x0310#16, 0x07FF#16] :
      List Word).map (fun w => (decode w).toOption) = List.replicate 8 none := by decide

/-- R82, the Word column. -/
theorem test_encode :
    [Instr.init 16, .sleep, .wake, .rdvobj, .rdtamb, .rddiec, .rdobjc].map encode =
      [0x0110#16, 0x0200#16, 0x0300#16, 0x0400#16, 0x0500#16, 0x0600#16, 0x0700#16] := by decide

/-- R99, R100. -/
theorem test_assemble_hex_and_comment :
    assembleWord ['I', 'N', 'I', 'T', ' ', '0', 'x', '1', '0', ' ', ';', ' ', 'x'] = some 0x0110#16 := by
  decide

theorem test_assemble_refuses_256 :
    assembleLine ['I', 'N', 'I', 'T', ' ', '2', '5', '6'] = .bad := by decide

/-! ### INIT (V10 to V19) -/

/-- V10: word 0x7100, result 1. V15: the byte-swapped identity is rejected, with STATUS OK. -/
theorem test_init_words_and_identity :
    (let t := after (exec (.init 1) (bench 0#16 threeOk))
     t.sensor.config = 0x7100#16 ∧ t.result = some 1#64 ∧ t.pstate = .active) ∧
    (let t := after (exec (.init 16) (otherSensor 0x4954#16 0x6700#16 threeOk))
     t.sensor.config = 0x7900#16 ∧ t.result = some 0#64 ∧ readStatus t = 0x00#8) := by decide

/-! ### SLEEP and WAKE (V20 to V28) -/

/-- V20. -/
theorem test_sleep_clears_mode :
    let t := after (exec .sleep (bench 0x7900#16 threeOk))
    t.sensor.config = 0x0900#16 ∧ t.pstate = .sleeping ∧ t.result = none := by decide

/-- V24: the word read is 0xFFFF, the word written 0x8FFF. -/
theorem test_sleep_echoes_reset_bit :
    (after (exec .sleep (bench 0x7F00#16 [.ok 0xFFFF#16, .ok 0#16]))).bus =
      [{ req := .read 0x02#8, res := .data 0xFF#8 0xFF#8 },
        { req := .write 0x02#8 0x8F#8 0xFF#8, res := .done }] := by decide

/-- V27. -/
theorem test_wake_sets_mode_only :
    let t := after (exec .wake (bench 0#16 threeOk))
    t.sensor.config = 0x7000#16 ∧ t.pstate = .active := by decide

/-- V28: bits 15 and 7 echoed. -/
theorem test_wake_echoes_bits :
    (after (exec .wake (bench 0x0400#16 [.ok 0x8080#16, .ok 0#16]))).bus =
      [{ req := .read 0x02#8, res := .data 0x84#8 0x80#8 },
        { req := .write 0x02#8 0xF4#8 0x80#8, res := .done }] := by decide

/-! ### RDVOBJ and RDTAMB (V40 to V52) -/

/-- V42, V44. -/
theorem test_rdvobj_sign :
    (after (exec .rdvobj (bench 0#16 [.ok 0xFC18#16]))).result = some 0xFFFFFFFFFFFFFC18#64 ∧
      (after (exec .rdvobj (bench 0#16 [.ok 0x8000#16]))).result = some 0xFFFFFFFFFFFF8000#64 := by
  decide

/-- V48, V50, V51, V52. -/
theorem test_rdtamb_floor :
    ([0x2583#16, 0x8000#16, 0xFFFF#16, 0xFFFB#16] : List Word).map
        (fun w => (after (exec .rdtamb (bench 0#16 [.ok w]))).result) =
      [some 0x960#64, some 0xFFFFFFFFFFFFE000#64, some 0xFFFFFFFFFFFFFFFF#64,
        some 0xFFFFFFFFFFFFFFFE#64] := by decide

/-! ### RDDIEC (V60 to V69) -/

theorem test_rddiec_vectors :
    ([0x0003#16, 0x0004#16, 0x2580#16, 0x7FFF#16, 0x8000#16, 0xFFFB#16] : List Word).map
        (fun w => dieTempC Config.constFile noNan (dieCount w)) =
      [0x0000000000000000#64, 0x3FA0000000000000#64, 0x4052C00000000000#64, 0x406FFF0000000000#64,
        0xC070000000000000#64, 0xBFB0000000000000#64] := by decide +kernel

/-! ### RDOBJC (V30 to V39, V70, V82) -/

/-- V30, V37 and V70 (both scalings of step 2) under the default constants; V34 is a quiet NaN. -/
theorem test_rdobjc_vectors :
    let out := fun scale (wv wt : Word) =>
      objTempC Config.defaultConstFile scale (pow4Squares noNan) noNan (dieCount wt) (s16 wv)
    out .mul 0x03E8#16 0x2580#16 = 0x4056EEA48C8B5228#64 ∧
      out .mul 0x0000#16 0x8000#16 = 0x40433EDEBF202988#64 ∧
      out .mul 0x085C#16 0xF520#16 = 0x4044CE06961317A0#64 ∧
      out .div 0x085C#16 0xF520#16 = 0x4044CE0696131798#64 ∧
      isQuietNaN (out .mul 0x8000#16 0x0C80#16) = true := by decide +kernel

/-- V82: the VOBJ read is not made. -/
theorem test_rdobjc_first_read_fails :
    let t := after (exec .rdobjc (bench 0#16 [.fail e1 0#16]))
    t.bus = [{ req := .read 0x01#8, res := .failed e1 }] ∧ readStatus t = 0x02#8 ∧
      t.errinfo = some e1 := by decide

/-! ### Witnesses: encoding -/

theorem witness_DecodeOfEncode : (Instr.init 255).WellFormed ∧ Instr.rdobjc.WellFormed := by decide

theorem witness_EncodeOfDecode :
    decode 0x01FF#16 = .ok (.init 255) ∧ decode 0x0700#16 = .ok .rdobjc := by decide

theorem witness_AssemblerLines :
    (0 : Nat) < 256 ∧ (255 : Nat) < 256 ∧ assembleLine (['I', 'N', 'I', 'T', ' '] ++ Nat.toDigits 10 255) =
      .command (.init 255) := by decide

/-! ### Witnesses: the step -/

/-- A bench whose host issues the given words. -/
def issuing (words : List Word) (s : State) : State := { s with cmds := words }

theorem witness_StepRuns :
    let s := issuing [0x0110#16] (bench 0#16 threeOk)
    s.waiting = false ∧ s.cmds = 0x0110#16 :: [] ∧ decode 0x0110#16 = .ok (.init 16) := by decide

theorem witness_IssuedTableWordRuns :
    decodeTableWord 16 0x0110 = some (.init 16) ∧ decodeTableWord 16 0x0700 = some .rdobjc := by decide

theorem witness_Idle : State.reset.waiting = false ∧ State.reset.cmds = [] := ⟨rfl, rfl⟩

theorem witness_IllegalWord :
    let s := issuing [0x0800#16, 0x0201#16] (bench 0#16 threeOk)
    s.waiting = false ∧ s.cmds = 0x0800#16 :: [0x0201#16] ∧ inOpcodeTable 0x0800#16 = false ∧
      inOpcodeTable 0x0201#16 = false := by decide

/-! ### Witnesses: INIT, SLEEP, WAKE -/

theorem witness_SampleRateMask :
    crmask 1 = some 0x0000#16 ∧ crmask 16 = some 0x0800#16 := by decide

theorem witness_InitConfigures :
    let s := bench 0#16 threeOk
    crmask 16 = some 0x0800#16 ∧ answerAt s 0 = .ok 0#16 ∧ answerAt s 1 = .ok 0#16 ∧
      answerAt s 2 = .ok 0#16 := by decide

/-- The boundary values of the first clause, and a command for the second. -/
theorem witness_IllegalRate :
    (0 ∉ [1, 2, 4, 8, 16] ∧ 3 ∉ [1, 2, 4, 8, 16] ∧ 17 ∉ [1, 2, 4, 8, 16] ∧ 256 ∉ [1, 2, 4, 8, 16]) ∧
      (∀ rate, Instr.rdvobj ≠ .init rate) ∧
      exec .rdvobj (bench 0#16 threeOk) = .next (after (exec .rdvobj (bench 0#16 threeOk))) ∧
      (after (exec .rdvobj (bench 0#16 threeOk))).waiting = false :=
  ⟨by decide, (fun _ h => nomatch h), rfl, rfl⟩

theorem witness_InitFails :
    crmask 1 = some 0x0000#16 ∧
      answerAt (bench 0#16 [.fail e1 5#16]) 0 = .fail e1 5#16 ∧
      (answerAt (bench 0#16 [.ok 0#16, .fail e1 5#16]) 0 = .ok 0#16 ∧
        answerAt (bench 0#16 [.ok 0#16, .fail e1 5#16]) 1 = .fail e1 5#16) ∧
      (answerAt (bench 0#16 [.ok 0#16, .ok 0#16, .fail e1 5#16]) 0 = .ok 0#16 ∧
        answerAt (bench 0#16 [.ok 0#16, .ok 0#16, .fail e1 5#16]) 1 = .ok 0#16 ∧
        answerAt (bench 0#16 [.ok 0#16, .ok 0#16, .fail e1 5#16]) 2 = .fail e1 5#16) := by decide

/-- The reset bit read clear and read set. -/
theorem witness_SleepClears_WakeSets :
    (let s := bench 0x7900#16 threeOk
     (0x7900#16 : Word) = (s.sensor.config &&& 0x7F00#16) ||| (0#16 &&& 0x80FF#16) ∧
       answerAt s 0 = .ok 0#16 ∧ answerAt s 1 = .ok 0#16) ∧
    (let s := bench 0x7900#16 [.ok 0x8080#16, .ok 3#16]
     (0xF980#16 : Word) = (s.sensor.config &&& 0x7F00#16) ||| (0x8080#16 &&& 0x80FF#16) ∧
       answerAt s 0 = .ok 0x8080#16 ∧ answerAt s 1 = .ok 3#16) := by decide

theorem witness_SleepAndWakeFailures :
    (Instr.sleep = .sleep ∧ clearMode = clearMode) ∧ (Instr.wake = .wake ∧ setMode = setMode) ∧
      answerAt (bench 0x7900#16 [.fail e1 0#16]) 0 = .fail e1 0#16 ∧
      (answerAt (bench 0x7900#16 [.ok 0#16, .fail e1 5#16]) 0 = .ok 0#16 ∧
        answerAt (bench 0x7900#16 [.ok 0#16, .fail e1 5#16]) 1 = .fail e1 5#16) :=
  ⟨⟨rfl, rfl⟩, ⟨rfl, rfl⟩, by decide, by decide⟩

/-- Each row of R27: a command that ends, with success and with failure. -/
theorem witness_PowerStateTable :
    let ok := bench 0x7900#16 threeOk
    let bad := bench 0x7900#16 [.ok 0#16, .fail e1 0#16]
    exec (.init 16) ok = .next (after (exec (.init 16) ok)) ∧
      exec (.init 3) ok = .next (after (exec (.init 3) ok)) ∧
      exec .sleep ok = .next (after (exec .sleep ok)) ∧
      exec .sleep bad = .next (after (exec .sleep bad)) ∧
      exec .wake ok = .next (after (exec .wake ok)) ∧
      exec .wake bad = .next (after (exec .wake bad)) ∧
      exec .rdobjc bad = .next (after (exec .rdobjc bad)) := ⟨rfl, rfl, rfl, rfl, rfl, rfl, rfl⟩

/-- SLEEP of an active sensor; the same state serves INIT and WAKE. -/
theorem witness_PowerStateMirrors :
    let s := bench 0x7900#16 threeOk
    let t := after (exec .sleep s)
    exec .sleep s = .next t ∧ t.waiting = false ∧ t.status = .ok ∧
      answerAt s 0 = .ok 0#16 ∧ answerAt s 1 = .ok 0#16 ∧
      KeepsWrite (clearMode (mergeConfig s.sensor.config 0#16)) 0#16 ∧
      KeepsWrite (setMode (mergeConfig s.sensor.config 0#16)) 0#16 :=
  ⟨rfl, by decide, by decide, by decide, by decide, by decide, by decide⟩

/-- For SleepThenWakeKeepsRateAndEnable. -/
theorem witness_SleepThenWake :
    let s := bench 0x7900#16 [.ok 0x80#16, .ok 0#16, .ok 0#16, .ok 0#16]
    let t := after (exec .sleep s)
    answerAt s 0 = .ok 0x80#16 ∧ answerAt s 1 = .ok 0#16 ∧ answerAt s 2 = .ok 0#16 ∧
      answerAt s 3 = .ok 0#16 ∧ rstBit 0x80#16 = false ∧ rstBit 0#16 = false ∧
      exec .sleep s = .next t ∧ exec .wake t = .next (after (exec .wake t)) ∧
      modField s.sensor.config = 0b111#3 :=
  ⟨by decide, by decide, by decide, by decide, by decide, by decide, rfl, rfl, by decide⟩

/-- SLEEP that reads bits 15, 11, 8, 7 and 0 set writes them set; WAKE that reads them. -/
theorem witness_WriteBackEchoes :
    (let s := bench 0x7900#16 [.ok 0x8081#16, .ok 0#16]
     let t := after (exec .sleep s)
     exec .sleep s = .next t ∧ t.bus = s.bus ++ t.bus ∧
       ({ req := .read 0x02#8, res := .data 0xF9#8 0x81#8 } : Transfer) ∈ t.bus ∧
       ({ req := .write 0x02#8 0x89#8 0x81#8, res := .done } : Transfer) ∈ t.bus ∧
       (0x89#8 : Byte).getLsbD 7 = true) ∧
    (let s := bench 0x0900#16 [.ok 0x8081#16, .fail e1 0#16]
     let t := after (exec .wake s)
     exec .wake s = .next t ∧ t.bus = s.bus ++ t.bus ∧
       ({ req := .read 0x02#8, res := .data 0x89#8 0x81#8 } : Transfer) ∈ t.bus ∧
       ({ req := .write 0x02#8 0xF9#8 0x81#8, res := .failed e1 } : Transfer) ∈ t.bus) :=
  ⟨⟨rfl, rfl, by decide, by decide, by decide⟩, ⟨rfl, rfl, by decide, by decide⟩⟩

/-! ### Witnesses: the reads -/

/-- Reads that succeed and reads that fail: for RdvobjReturnsSignedVoltage, RdtambReturnsShiftedDieCount,
RddiecReturnsDieTemperature, RdobjcReturnsObjectTemperature and RdobjcFailsAtEachTransaction. -/
theorem witness_Reads :
    answerAt (bench 0#16 [.ok 0x8000#16, .ok 0x7FFF#16]) 0 = .ok 0x8000#16 ∧
      answerAt (bench 0#16 [.ok 0x8000#16, .ok 0x7FFF#16]) 1 = .ok 0x7FFF#16 ∧
      answerAt (bench 0#16 [.fail e1 0#16]) 0 = .fail e1 0#16 ∧
      answerAt (bench 0#16 [.ok 0x8000#16, .fail e1 0#16]) 0 = .ok 0x8000#16 ∧
      answerAt (bench 0#16 [.ok 0x8000#16, .fail e1 0#16]) 1 = .fail e1 0#16 := by decide

/-- Two RDOBJC of one run, one after the other, with TAMB words that differ in bits 1:0. -/
theorem witness_DependsOnWordsOnly :
    let s := bench 0#16 [.ok 0x2580#16, .ok 0x03E8#16, .ok 0x2583#16, .ok 0x03E8#16]
    let s' := after (exec .rdobjc s)
    s.draws ≠ s'.draws ∧ answerAt s 0 = .ok 0x2580#16 ∧ answerAt s' 0 = .ok 0x2583#16 ∧
      (0x2580#16 &&& 0xFFFC#16 : Word) = 0x2583#16 &&& 0xFFFC#16 ∧
      answerAt s 1 = .ok 0x03E8#16 ∧ answerAt s' 1 = .ok 0x03E8#16 ∧
      exec .rdobjc s = .next (after (exec .rdobjc s)) ∧ exec .rdobjc s' = .next (after (exec .rdobjc s')) :=
  ⟨by decide, by decide, rfl, by decide, by decide, rfl, rfl, rfl⟩

/-- Each premise of the edge cases: a NaN, a finite negative and the negative infinity as radicand; a zero
sensitivity of either sign with `f` not zero and with `f` zero. -/
theorem witness_EdgeCases :
    isNaN 0x7FF8000000000000#64 = true ∧
      (isFinite 0xBFF0000000000000#64 = true ∧ value 0xBFF0000000000000#64 < 0) ∧
      isFinite ((fun _ => 0x3FF0000000000000#64) (0#64 : F64) : F64) = true ∧
      isZero 0x0000000000000000#64 = true ∧ isZero 0x8000000000000000#64 = true ∧
      isFinite 0x3FF0000000000000#64 = true ∧ isZero 0x3FF0000000000000#64 = false := by decide +kernel

/-! ### Witnesses: floating point -/

theorem witness_IntegerToBinary64 :
    ((-32768 : Int) ≤ -32768 ∧ (-32768 : Int) ≤ 32767) ∧ ((-32768 : Int) ≤ 32767 ∧ (32767 : Int) ≤ 32767) := by
  decide

/-- A number that two binary64 values are equally near: 2^53 + 1 units. -/
theorem witness_RoundingIsToNearest :
    let num := 2 ^ 53 + 1
    let y : F64 := 0x0020000000000001#64
    0 < 1 ∧ isFinite (roundTo false num 1) = true ∧ isFinite y = true ∧
      ((mag (roundTo false num 1) * (1 : Nat) : Int) - num).natAbs = ((mag y * (1 : Nat) : Int) - num).natAbs ∧
      mag y ≠ mag (roundTo false num 1) := by decide +kernel

/-- The least magnitude that overflows, and the one below it. -/
theorem witness_RoundingOverflows :
    isFinite (roundTo true ((2 ^ 54 - 1) * 2 ^ 2044) 1) = false ∧
      isFinite (roundTo true ((2 ^ 54 - 1) * 2 ^ 2044 - 1) 1) = true := by decide +kernel

/-- The value 2, and the least positive value. -/
theorem witness_SquareRoot :
    (isFinite 0x4000000000000000#64 = true ∧ isZero 0x4000000000000000#64 = false ∧
        sign 0x4000000000000000#64 = false) ∧
      (isFinite 0x0000000000000001#64 = true ∧ isZero 0x0000000000000001#64 = false ∧
        sign 0x0000000000000001#64 = false) := by decide

/-- 1 and 3: every result is finite, and the quotient is inexact. -/
theorem witness_ArithmeticIsCorrectlyRounded :
    let a : F64 := 0x3FF0000000000000#64
    let b : F64 := 0x4008000000000000#64
    isFinite a = true ∧ isFinite b = true ∧ isZero b = false ∧ isFinite (fadd 0#52 a b) = true ∧
      isFinite (fsub 0#52 a b) = true ∧ isFinite (fmul 0#52 a b) = true ∧
      isFinite (fdiv 0#52 a b) = true := by decide +kernel

/-- The largest finite value, its opposite and the least positive value: each result is too large. -/
theorem witness_ArithmeticOverflows :
    let a : F64 := 0x7FEFFFFFFFFFFFFF#64
    let b : F64 := 0xFFEFFFFFFFFFFFFF#64
    let c : F64 := 0x0000000000000001#64
    isFinite a = true ∧ isFinite b = true ∧ isFinite c = true ∧ isZero c = false ∧
      isFinite (fadd 0#52 a a) = false ∧ isFinite (fsub 0#52 a b) = false ∧
      isFinite (fmul 0#52 a b) = false ∧ isFinite (fdiv 0#52 b c) = false := by decide +kernel

/-- A NaN, the infinities, the zeros and finite values that are not zero: for AddSubMulSpecialValues,
DivisionSpecialValues and SquareRootSpecialValues. -/
theorem witness_SpecialValues :
    isNaN 0x7FF8000000000000#64 = true ∧ isInf (infinity false) = true ∧ isInf (infinity true) = true ∧
      isZero (zero false) = true ∧ isZero (zero true) = true ∧ isFinite (zero true) = true ∧
      isNaN (infinity true) = false ∧ isZero (infinity true) = false ∧
      isFinite 0x3FF0000000000000#64 = true ∧ isZero 0x3FF0000000000000#64 = false ∧
      (isFinite 0x8000000000000001#64 = true ∧ value 0x8000000000000001#64 < 0) := by decide

/-! ### Witnesses: the transport and the whole machine -/

theorem witness_TransportFailure :
    let s := bench 0#16 [.ok 0#16, .fail e1 0#16]
    let t := after (exec .rdobjc s)
    exec .rdobjc s = .next t ∧ t.bus = s.bus ++ t.bus ∧
      ({ req := .read 0x00#8, res := .failed e1 } : Transfer) ∈ t.bus ∧ t.waiting = false ∧
      t.status = .transportError := ⟨rfl, rfl, by decide, by decide, by decide⟩

/-- A command that ends, with every transaction made. -/
theorem witness_CommandsFollowTable :
    let s := bench 0#16 threeOk
    let t := after (exec (.init 16) s)
    exec (.init 16) s = .next t ∧ t.waiting = false ∧ t.status = .ok := ⟨rfl, by decide, by decide⟩

/-- A write that is never answered. -/
theorem witness_Unanswered :
    let s := bench 0#16 [.never 9#16]
    let t := after (exec (.init 16) s)
    s.waiting = false ∧ exec (.init 16) s = .next t ∧ t.bus = s.bus ++ t.bus ∧ t.waiting = true :=
  ⟨rfl, rfl, rfl, by decide⟩

/-- A step that keeps the invariant, changes PSTATE and bits 14:8 of CONFIG, and takes a command: for
EveryStepKeepsMachineInvariant, IdentityRegistersNeverChange, PowerStateChangesOnlyByConfigWrite,
ConfigChangesOnlyByWrite and StepTakesOneCommand. -/
theorem witness_Step :
    let s := issuing [0x0200#16] (bench 0x7900#16 threeOk)
    let t := after (step s)
    Inv s ∧ step s = .next t ∧ t.pstate ≠ s.pstate ∧
      t.sensor.config &&& configKept ≠ s.sensor.config &&& configKept ∧ s.cmds ≠ [] :=
  ⟨by decide, rfl, by decide, by decide, by decide⟩

/-- A step from a state of the invariant that waits for nothing and has recorded a failure. -/
theorem witness_InvAfterFailure :
    let s := after (exec .wake (bench 0x7900#16 [.ok 0#16, .fail e1 0#16]))
    Inv s ∧ step s = .next s := ⟨by decide, rfl⟩

/-- Two states that differ in the outcome registers and in PSTATE. -/
theorem witness_IgnoreEarlierOutcomes :
    let s := bench 0x7900#16 threeOk
    let s' : State := { s with pstate := .active, status := .ok, rkind := .bool, result := some 1#64 }
    s' = { s with pstate := s'.pstate, status := s'.status, rkind := s'.rkind, result := s'.result,
                  errinfo := s'.errinfo } ∧
      exec .sleep s = .next (after (exec .sleep s)) ∧ exec .sleep s' = .next (after (exec .sleep s')) :=
  ⟨rfl, rfl, rfl⟩

/-- A state with a result, a state with an error value and a state with neither. -/
theorem witness_HostReads :
    registersAgree (after (exec .rdvobj (bench 0#16 threeOk))) = true ∧
      registersAgree (after (exec .rdvobj (bench 0#16 [.fail e1 0#16]))) = true ∧
      registersAgree State.reset = true := by decide

/-! ### Faults and stops -/

/-- V81: the argument check comes before a dead bus. -/
theorem test_illegal_rate_on_dead_bus :
    let t := after (exec (.init 3) (bench 0x7900#16 [.never 0#16]))
    readStatus t = 0x01#8 ∧ t.bus = [] ∧ t.waiting = false := by decide

/-- V80. -/
theorem test_illegal_word :
    let t := after (step (issuing [0x0000#16] (bench 0x7900#16 threeOk)))
    readStatus t = 0x03#8 ∧ readRkind t = 0#2 ∧ t.bus = [] := by decide

/-- U13. -/
theorem test_host_read_of_no_result : readResult State.reset = .error .resultHoldsNoValue := by decide

/-- R52. -/
theorem test_device_refuses_0x03 :
    deviceRead 0x03#8 State.reset (fun _ s => s) = .refused (.unmappedRegister 0x03#8) := rfl

end Sys2Proof.Tests
end

section
/-! PROOFS. The machine's invariant (10_state.md R22 to R25, R38; 70_reset_and_hazards.md R212). -/

namespace Sys2Proof.Machine

/-! ### The outcome registers -/

theorem registersAgree_raise (f : CmdFault) (s : State) : registersAgree (raise f s) = true := by
  cases f <;> rfl

theorem registersAgree_complete {k : RKind} {v : Option F64} (hv : resultFits k v = true) (s : State) :
    registersAgree (complete k v s) = true := by
  simp [registersAgree, errinfoFits, hv]

/-! ### The record of transactions -/

/-- While the converter does not wait, every transaction of a sound record has its answer. -/
theorem recordSound_iff_of_not_waiting {s : State} (hw : s.waiting = false) :
    recordSound s = true ↔
      s.bus.all transferAllowed = true ∧ s.bus.all Transfer.answered = true := by
  simp [recordSound, hw]

theorem recordSound_transact {q : Request} {a : Response} {v : Sensor} {s : State}
    (hw : s.waiting = false) (hs : recordSound s = true)
    (hallowed : transferAllowed { req := q, res := a } = true)
    (hanswered : Transfer.answered { req := q, res := a } = true) :
    recordSound (transact q a v s) = true := by
  rw [recordSound_iff_of_not_waiting hw] at hs
  obtain ⟨hbus, hall⟩ := hs
  rw [recordSound_iff_of_not_waiting (transact_waiting q a v s ▸ hw)]
  simp only [transact_bus, List.all_append, hbus, hall, List.all_cons, hallowed, hanswered,
    List.all_nil, Bool.and_self, and_self]

theorem recordSound_hang_transact {q : Request} {v : Sensor} {s : State}
    (hw : s.waiting = false) (hs : recordSound s = true)
    (hallowed : transferAllowed { req := q, res := .pending } = true) :
    recordSound (hang (transact q .pending v s)) = true := by
  rw [recordSound_iff_of_not_waiting hw] at hs
  obtain ⟨hbus, hall⟩ := hs
  simp [recordSound, hbus, hall, hallowed, Transfer.answered]

/-! ### The invariant between the transactions of a command -/

/-- What holds of the state between two transactions of a command: `Inv`, and no transaction is without its
answer yet. -/
structure InvRunning (s : State) : Prop where
  inv : Inv s
  running : s.waiting = false

theorem InvRunning.transact {s : State} (h : InvRunning s) {q : Request} {a : Response} {v : Sensor}
    (hallowed : transferAllowed { req := q, res := a } = true)
    (hanswered : Transfer.answered { req := q, res := a } = true) :
    InvRunning (transact q a v s) :=
  ⟨⟨h.inv.1, recordSound_transact h.running h.inv.2 hallowed hanswered⟩, h.running⟩

theorem InvRunning.setPState {s : State} (h : InvRunning s) (p : PState) :
    InvRunning (setPState p s) := ⟨h.inv, h.running⟩

theorem inv_raise {s : State} (h : Inv s) (f : CmdFault) : Inv (raise f s) :=
  ⟨registersAgree_raise f s, h.2⟩

theorem inv_complete {s : State} (h : Inv s) {k : RKind} {v : Option F64}
    (hv : resultFits k v = true) : Inv (complete k v s) :=
  ⟨registersAgree_complete hv s, h.2⟩

theorem InvRunning.inv_hang {s : State} (h : InvRunning s) {q : Request} {v : Sensor}
    (hallowed : transferAllowed { req := q, res := .pending } = true) :
    Inv (hang (Machine.transact q .pending v s)) :=
  ⟨h.inv.1, recordSound_hang_transact h.running h.inv.2 hallowed⟩

/-- A command keeps the invariant: a read names a register of the map, a write names CONFIG. -/
theorem exec_keeps_inv {i : Instr} {s t : State} (hs : InvRunning s) (h : exec i s = .next t) : Inv t :=
  exec_keeps (M := InvRunning) (E := Inv)
    (hread := fun r _ _ hm => hm.transact (by simp [transferAllowed]) rfl)
    (hreadFail := fun r _ _ hm => inv_raise (hm.transact (by simp [transferAllowed]) rfl).inv _)
    (hreadNever := fun r _ hm => hm.inv_hang (by simp [transferAllowed]))
    (hwrite := fun _ _ _ hm => hm.transact rfl rfl)
    (hwriteFail := fun _ _ _ _ hm => inv_raise (hm.transact rfl rfl).inv _)
    (hwriteNever := fun _ _ _ hm => hm.inv_hang rfl)
    (hpower := fun p _ hm => hm.setPState p)
    (hcomplete := fun _ _ _ hv hm => inv_complete hm.inv hv)
    (hrefuse := fun _ hm => inv_raise hm.inv _)
    hs h

/-- Settles O48: IllegalCommand and every command keep the invariant, and an idle step changes nothing. -/
theorem everyStepKeepsMachineInvariant : Obligations.EveryStepKeepsMachineInvariant := by
  unfold Obligations.EveryStepKeepsMachineInvariant
  intro s t hinv hstep
  exact step_keeps (R := fun s t => Inv s → Inv t)
    (hidle := fun _ h => h)
    (hcmds := fun _ _ _ hR => hR)
    (hillegal := fun _ h => inv_raise h _)
    (hexec := fun _ _ _ hw he h => exec_keeps_inv ⟨h, hw⟩ he)
    hstep hinv

/-- Settles O1: each field is the one `State.reset` names, read through the codes of R22, R23 and R26. -/
theorem resetLeavesIdleUninitializedConverter : Obligations.ResetLeavesIdleUninitializedConverter :=
  ⟨rfl, rfl, rfl, rfl, rfl, rfl, rfl, rfl, rfl, rfl⟩

/-- Settles O2: at reset there is no result with RKIND none, no error value with STATUS OK, and an empty
record. -/
theorem resetMeetsMachineInvariant : Obligations.ResetMeetsMachineInvariant := ⟨rfl, rfl⟩

end Sys2Proof.Machine
end

section
/-! PROOFS. The step and the command it runs (10_state.md R30), and the host's reads of the outcome registers
(R23, R25). -/

namespace Sys2Proof.Machine

/-! ### The step -/

/-- R30: a step on a command word that decodes is `exec` of the command, with the word taken. -/
theorem step_of_decode {s : State} {w : Word} {rest : List Word} {i : Instr} (hw : s.waiting = false)
    (hc : s.cmds = w :: rest) (hd : decode w = .ok i) : step s = exec i { s with cmds := rest } := by
  simp [step, hw, fetch_cons w rest s hc, issue, hd]

/-- R82: the command of a table row is what the row's word decodes to. -/
theorem decode_tableWord {nbits w : Nat} {i : Instr} (h : decodeTableWord nbits w = some i) :
    decode (tableWord nbits w) = .ok i := by
  unfold decodeTableWord at h
  split at h
  · cases hd : decode (tableWord nbits w) with
    | ok j => simpa [hd, Except.toOption] using h
    | error e => simp [hd, Except.toOption] at h
  · cases h

/-- Settles O8: the step takes the word, decodes it and runs the command. -/
theorem stepRunsDecodedCommand : Obligations.StepRunsDecodedCommand :=
  fun _ _ _ _ hw hc hd => step_of_decode hw hc hd

/-- Settles O9: issuing the word puts it in front and ends the wait, so the step takes it away again and runs
the row's command. -/
theorem issuedTableWordRuns : Obligations.IssuedTableWordRuns := by
  unfold Obligations.IssuedTableWordRuns
  intro s nbits w i h
  exact step_of_decode (s := s.withFetchWord nbits w) rfl rfl (decode_tableWord h)

/-! ### The host's reads -/

theorem readRkind_eq_zero_iff (s : State) : readRkind s = 0#2 ↔ s.rkind = .none := by
  unfold readRkind
  cases s.rkind <;> decide

theorem readStatus_eq_two_iff (s : State) : readStatus s = 0x02#8 ↔ s.status = .transportError := by
  unfold readStatus
  cases s.status <;> decide

/-- R23: a RESULT that fits RKIND holds no value exactly when RKIND is none. -/
theorem result_eq_none_iff {k : RKind} {v : Option F64} (h : resultFits k v = true) :
    v = none ↔ k = .none := by
  unfold resultFits at h
  split at h
  case h_5 => cases h
  all_goals simp

/-- R25: an ERRINFO that fits STATUS holds no value exactly when STATUS is not TransportError. -/
theorem errinfo_eq_none_iff {c : Status} {e : Option TransportErr} (h : errinfoFits c e = true) :
    e = none ↔ c ≠ .transportError := by
  unfold errinfoFits at h
  split at h
  case h_2 => cases h
  case h_4 => cases h
  case h_1 => simp
  case h_3 hc => simpa using hc

/-- R23, U13: where RESULT fits RKIND, the host reads the value held and faults where there is none. -/
theorem readResult_eq {s : State} (h : resultFits s.rkind s.result = true) :
    readResult s = s.result.elim (.error .resultHoldsNoValue) .ok := by
  unfold readResult
  split
  case h_1 hk => rw [(result_eq_none_iff h).2 hk, Option.elim_none]
  case h_2 hv _ => rw [hv, Option.elim_some]
  case h_3 hv _ => rw [hv, Option.elim_none]

/-- R25, U13: where ERRINFO fits STATUS, the host reads the value held and faults where there is none. -/
theorem readErrinfo_eq {s : State} (h : errinfoFits s.status s.errinfo = true) :
    readErrinfo s = s.errinfo.elim (.error .errinfoHoldsNoValue) .ok := by
  unfold readErrinfo
  split
  case h_1 he => rw [he, Option.elim_some]
  case h_2 hne =>
    cases he : s.errinfo with
    | none => rfl
    | some e =>
      have hc : s.status = .transportError :=
        not_not.1 fun hc => by simp [(errinfo_eq_none_iff h).2 hc] at he
      exact absurd he (hne e hc)

/-- A host read of a register faults exactly when the register holds no value. -/
theorem elim_eq_error_iff {α : Type} (x : Option α) (f : Fault) :
    (x.elim (.error f) .ok : Except Fault α) = .error f ↔ x = none := by
  cases x <;> simp

/-- A host read of a register gives exactly the value the register holds. -/
theorem elim_eq_ok_iff {α : Type} (x : Option α) (f : Fault) (a : α) :
    (x.elim (.error f) .ok : Except Fault α) = .ok a ↔ x = some a := by
  cases x <;> simp

/-- Settles O55: where the outcome registers agree, each register is without a value exactly when its code
says so. -/
theorem hostReadsOfNoValueFault : Obligations.HostReadsOfNoValueFault := by
  unfold Obligations.HostReadsOfNoValueFault
  intro s hs
  simp only [registersAgree, Bool.and_eq_true] at hs
  obtain ⟨⟨hresult, herrinfo⟩, -⟩ := hs
  rw [readResult_eq hresult, readErrinfo_eq herrinfo]
  refine ⟨?_, ?_, fun v => elim_eq_ok_iff _ _ v, fun e => elim_eq_ok_iff _ _ e⟩
  · rw [elim_eq_error_iff, result_eq_none_iff hresult, readRkind_eq_zero_iff]
  · rw [elim_eq_error_iff, errinfo_eq_none_iff herrinfo, Ne, Ne, readStatus_eq_two_iff]

end Sys2Proof.Machine
end

section
/-! PROOFS. PSTATE (10_state.md R26, R27): the table of its transitions, the mode field of CONFIG it mirrors,
and the CONFIG write it follows. -/

namespace Sys2Proof.Machine

/-! ### The record of two transactions -/

/-- Log 2, log 3, log 4: one transaction uses up one answer and one draw number and is recorded. -/
theorem transact_eq_afterBus (x : Transfer) (v : Sensor) (s : State) :
    transact x.req x.res v s = afterBus [x] v s := by
  simp [transact, afterBus]

theorem afterBus_afterBus (ts ts' : List Transfer) (v v' : Sensor) (s : State) :
    afterBus ts' v' (afterBus ts v s) = afterBus (ts ++ ts') v' s := by
  simp [afterBus, Nat.add_assoc]

/-! ### The configuration word and the mode field -/

/-- R92: the sample-rate mask is defined on the five legal rates only. -/
theorem crmask_eq_none_iff (rate : Nat) : crmask rate = none ↔ rate ∉ [1, 2, 4, 8, 16] := by
  unfold crmask
  split <;> simp_all

/-- R88: the mode-on field lies in the bits of CONFIG that keep what was last written. -/
theorem modField_congr {a b : Word} (h : a &&& configKept = b &&& configKept) :
    modField a = modField b := by
  have hkept : ∀ c : Word, modField (c &&& configKept) = modField c := by
    intro c
    unfold modField
    rw [BitVec.extractLsb'_and]
    exact BitVec.and_allOnes
  rw [← hkept a, h, hkept b]

/-- R115. -/
@[simp] theorem modField_clearMode (c : Word) : modField (clearMode c) = 0b000#3 := by
  unfold modField clearMode
  rw [BitVec.extractLsb'_and]
  exact BitVec.and_zero

/-- R118. -/
@[simp] theorem modField_setMode (c : Word) : modField (setMode c) = 0b111#3 := by
  unfold modField setMode
  rw [BitVec.extractLsb'_or]
  exact BitVec.or_allOnes

/-- R93: the configuration word is a word with the mode-on field set. -/
theorem configWord_eq_setMode (m : Word) : configWord m = setMode (enableMask ||| m) := by
  rw [configWord, setMode, BitVec.or_assoc, BitVec.or_comm]

/-- R93: the configuration word leaves the reset bit clear, so CONFIG holds it after the write. -/
theorem Sensor.write_configWord {rate : Nat} {m : Word} (hm : crmask rate = some m) (v : Sensor)
    (draw : Word) : (v.write (configWord m) draw).config = configWord m := by
  have hrst : rstBit (configWord m) = false := by
    unfold crmask at hm
    split at hm <;> cases hm <;> rfl
  simp [Sensor.write, hrst]

/-- R61: under the reference sensor CONFIG has the mode-on field of the word written. -/
theorem Sensor.modField_write {w draw : Word} (h : KeepsWrite w draw) (v : Sensor) :
    modField (v.write w draw).config = modField w := by
  unfold Sensor.write
  split
  case isTrue hrst => exact modField_congr (h.resolve_left (by simp [hrst]))
  case isFalse => rfl

/-! ### SLEEP and WAKE -/

/-- What SLEEP and WAKE do (R115, R118): they read CONFIG, write it back with the mode-on field edited, and
set PSTATE. -/
def rewriteMode (edit : Word → Word) (p : PState) (s : State) : State :=
  memRead .config s fun c s0 => memWrite (edit c) s0 fun s1 => returnNone (setPState p s1)

theorem exec_sleep (s : State) : exec .sleep s = .next (rewriteMode clearMode .sleeping s) := rfl

theorem exec_wake (s : State) : exec .wake s = .next (rewriteMode setMode .active s) := rfl

section
variable {edit : Word → Word} {p : PState} {s : State}

/-- SLEEP and WAKE with both transactions succeeding, given whole. -/
theorem rewriteMode_ok {d0 d1 c : Word} (hc : c = mergeConfig s.sensor.config d0)
    (h0 : answerAt s 0 = .ok d0) (h1 : answerAt s 1 = .ok d1) :
    rewriteMode edit p s =
      { afterBus [readTransfer .config c, writeTransfer (edit c)]
          ((s.sensor.move .config d0).write (edit c) d1) s with
        pstate := p, status := .ok, rkind := .none, result := none, errinfo := none } := by
  subst hc
  rw [rewriteMode, memRead_ok h0, memWrite_ok ((answerAt_transact _ _ _ _ _).trans h1)]
  simp only [transact_eq_afterBus, afterBus_afterBus, afterBus_sensor]
  rfl

/-- Everything SLEEP and WAKE can do to PSTATE: both transactions succeed, and `rewriteMode_ok` gives the
state, or PSTATE is unchanged and the command does not end with STATUS OK. -/
theorem rewriteMode_cases (edit : Word → Word) (p : PState) (s : State) :
    (∃ d0 d1, answerAt s 0 = .ok d0 ∧ answerAt s 1 = .ok d1) ∨
      ¬((∃ d, answerAt s 0 = .ok d) ∧ ∃ d, answerAt s 1 = .ok d) ∧
        (rewriteMode edit p s).pstate = s.pstate ∧
        ((rewriteMode edit p s).waiting = false → (rewriteMode edit p s).status ≠ .ok) := by
  cases h0 : answerAt s 0 with
  | ok d0 =>
    cases h1 : answerAt s 1 with
    | ok d1 => exact .inl ⟨d0, d1, rfl, rfl⟩
    | fail e left =>
      rw [rewriteMode, memRead_ok h0, memWrite_fail ((answerAt_transact _ _ _ _ _).trans h1)]
      exact .inr ⟨by simp, rfl, fun _ => nofun⟩
    | never left =>
      rw [rewriteMode, memRead_ok h0, memWrite_never ((answerAt_transact _ _ _ _ _).trans h1)]
      exact .inr ⟨by simp, rfl, nofun⟩
  | fail e left =>
    rw [rewriteMode, memRead_fail h0]
    exact .inr ⟨by simp, rfl, fun _ => nofun⟩
  | never left =>
    rw [rewriteMode, memRead_never h0]
    exact .inr ⟨by simp, rfl, nofun⟩

/-- The rows of R27 for SLEEP and WAKE. -/
theorem rewriteMode_pstate :
    (rewriteMode edit p s).pstate =
      if (∃ d, answerAt s 0 = .ok d) ∧ ∃ d, answerAt s 1 = .ok d then p else s.pstate := by
  obtain ⟨d0, d1, h0, h1⟩ | ⟨hnot, hp, -⟩ := rewriteMode_cases edit p s
  · rw [rewriteMode_ok rfl h0 h1, if_pos ⟨⟨d0, h0⟩, d1, h1⟩]
  · rw [hp, if_neg hnot]

/-- SLEEP and WAKE that end with STATUS OK leave their PSTATE and, under the reference sensor, the mode-on
field of the word they write. -/
theorem rewriteMode_mode (hwait : (rewriteMode edit p s).waiting = false)
    (hok : (rewriteMode edit p s).status = .ok)
    (hkeep : ∀ d0 d1, answerAt s 0 = .ok d0 → answerAt s 1 = .ok d1 →
      KeepsWrite (edit (mergeConfig s.sensor.config d0)) d1) :
    (rewriteMode edit p s).pstate = p ∧
      ∃ c, modField (rewriteMode edit p s).sensor.config = modField (edit c) := by
  obtain ⟨d0, d1, h0, h1⟩ | ⟨-, -, hnot⟩ := rewriteMode_cases edit p s
  · rw [rewriteMode_ok rfl h0 h1]
    exact ⟨rfl, _, Sensor.modField_write (hkeep d0 d1 h0 h1) _⟩
  · exact absurd hok (hnot hwait)

end

/-! ### Reads of other registers than CONFIG -/

/-- PSTATE and CONFIG are as in `s`, and the record has at most grown. -/
structure KeepsPower (s t : State) : Prop where
  pstate : t.pstate = s.pstate
  config : t.sensor.config = s.sensor.config
  bus : ∃ new : List Transfer, t.bus = s.bus ++ new

theorem KeepsPower.refl (s : State) : KeepsPower s s := ⟨rfl, rfl, [], (List.append_nil _).symm⟩

theorem KeepsPower.transact {s t : State} (h : KeepsPower s t) (q : Request) (a : Response) {v : Sensor}
    (hv : v.config = t.sensor.config) : KeepsPower s (transact q a v t) := by
  obtain ⟨hp, hc, new, hbus⟩ := h
  exact ⟨hp, hv.trans hc, new ++ [{ req := q, res := a }], by rw [transact_bus, hbus, List.append_assoc]⟩

theorem KeepsPower.raise {s t : State} (h : KeepsPower s t) (f : CmdFault) : KeepsPower s (raise f t) :=
  ⟨h.pstate, h.config, h.bus⟩

theorem KeepsPower.hang {s t : State} (h : KeepsPower s t) : KeepsPower s (hang t) :=
  ⟨h.pstate, h.config, h.bus⟩

theorem KeepsPower.complete {s t : State} (h : KeepsPower s t) (k : RKind) (v : Option F64) :
    KeepsPower s (complete k v t) := ⟨h.pstate, h.config, h.bus⟩

theorem memRead_keepsPower {r : Reg} (hr : r ≠ .config) {s t : State} {next : Word → State → State}
    (ht : KeepsPower s t) (hnext : ∀ w u, KeepsPower s u → KeepsPower s (next w u)) :
    KeepsPower s (memRead r t next) :=
  memRead_keeps ht (fun u draw h => h.transact _ _ (u.sensor.move_get_of_ne r .config draw hr.symm))
    (fun _ _ h => (h.transact _ _ rfl).raise _) (fun _ h => (h.transact _ _ rfl).hang) hnext

/-- The four read commands leave PSTATE and CONFIG alone. -/
theorem exec_read_keepsPower {i : Instr} (hi : i = .rdvobj ∨ i = .rdtamb ∨ i = .rddiec ∨ i = .rdobjc)
    {s t : State} (h : exec i s = .next t) : KeepsPower s t := by
  obtain rfl | rfl | rfl | rfl := hi <;> obtain rfl := Host.Outcome.next.inj h
  case inr.inr.inr =>
    exact memRead_keepsPower (by decide) (.refl s) fun _ _ h0 =>
      memRead_keepsPower (by decide) h0 fun _ _ h1 => h1.complete _ _
  all_goals exact memRead_keepsPower (by decide) (.refl s) fun _ _ h0 => h0.complete _ _

/-! ### INIT -/

/-- R112: INIT with an illegal rate. -/
theorem exec_init_illegal {rate : Nat} (hm : crmask rate = none) (s : State) :
    exec (.init rate) s = .next (raise .invalidArgument s) := by
  simp [exec, execInit, hm]

/-- R113: the two identity reads of INIT, and its result. -/
def checkIdentity (s : State) : State :=
  memRead .manid s fun mid s1 => memRead .devid s1 fun did s2 => returnBool (identityOk mid did) s2

/-- R111: INIT with a legal rate. -/
theorem exec_init_legal {rate : Nat} {m : Word} (hm : crmask rate = some m) (s : State) :
    exec (.init rate) s =
      .next (memWrite (configWord m) s fun s0 => checkIdentity (setPState .active s0)) := by
  simp [exec, execInit, hm, checkIdentity]

theorem checkIdentity_keepsPower (s : State) : KeepsPower s (checkIdentity s) :=
  memRead_keepsPower (by decide) (.refl s) fun _ _ h0 =>
    memRead_keepsPower (by decide) h0 fun _ _ h1 => h1.complete _ _

/-- Everything INIT can do to PSTATE: the rate is legal and the CONFIG write succeeds, and the identity reads
then change nothing of it; or PSTATE is unchanged and the command does not end with STATUS OK. -/
theorem exec_init_cases {rate : Nat} {s t : State} (h : exec (.init rate) s = .next t) :
    (rate ∈ [1, 2, 4, 8, 16] ∧ (∃ d, answerAt s 0 = .ok d) ∧ t.pstate = .active ∧
        ∃ m reads, t.sensor.config = configWord m ∧
          t.bus = s.bus ++ writeTransfer (configWord m) :: reads) ∨
      ¬(rate ∈ [1, 2, 4, 8, 16] ∧ ∃ d, answerAt s 0 = .ok d) ∧ t.pstate = s.pstate ∧
        (t.waiting = false → t.status ≠ .ok) := by
  cases hm : crmask rate with
  | none =>
    have hrate := (crmask_eq_none_iff rate).1 hm
    obtain rfl := Host.Outcome.next.inj ((exec_init_illegal hm s).symm.trans h)
    exact .inr ⟨fun hc => hrate hc.1, rfl, fun _ => nofun⟩
  | some m =>
    have hrate : rate ∈ [1, 2, 4, 8, 16] :=
      not_not.1 fun hc => by simp [(crmask_eq_none_iff rate).2 hc] at hm
    obtain rfl := Host.Outcome.next.inj ((exec_init_legal hm s).symm.trans h)
    cases h0 : answerAt s 0 with
    | ok d =>
      rw [memWrite_ok h0]
      obtain ⟨hp, hc, reads, hbus⟩ := checkIdentity_keepsPower (setPState .active
        (transact (writeTransfer (configWord m)).req (writeTransfer (configWord m)).res
          (s.sensor.write (configWord m) d) s))
      exact .inl ⟨hrate, ⟨d, rfl⟩, hp, m, reads, hc.trans (s.sensor.write_configWord hm d),
        hbus.trans (List.append_assoc _ _ _)⟩
    | fail e left =>
      rw [memWrite_fail h0]
      exact .inr ⟨by simp, rfl, fun _ => nofun⟩
    | never left =>
      rw [memWrite_never h0]
      exact .inr ⟨by simp, rfl, nofun⟩

/-! ### The statements -/

/-- Settles O19, row by row: INIT by its CONFIG write, SLEEP and WAKE by their two transactions, and the read
commands by what a read leaves alone. -/
theorem powerStateTransitionTable : Obligations.PowerStateTransitionTable := by
  unfold Obligations.PowerStateTransitionTable
  intro i s t h
  refine ⟨?_, ?_, ?_, fun hi => (exec_read_keepsPower hi h).pstate⟩
  · rintro rate rfl
    obtain ⟨hrate, h0, hp, -⟩ | ⟨hnot, hp, -⟩ := exec_init_cases h
    · rw [hp, if_pos ⟨hrate, h0⟩]
    · rw [hp, if_neg hnot]
  · rintro rfl
    obtain rfl := Host.Outcome.next.inj ((exec_sleep s).symm.trans h)
    exact rewriteMode_pstate
  · rintro rfl
    obtain rfl := Host.Outcome.next.inj ((exec_wake s).symm.trans h)
    exact rewriteMode_pstate

/-- Settles O20: each of the three commands leaves PSTATE and the mode-on field together, Active with 0b111
or Sleeping with 0b000. -/
theorem powerStateMirrorsModeField : Obligations.PowerStateMirrorsModeField := by
  unfold Obligations.PowerStateMirrorsModeField
  rintro i s t (⟨rate, rfl⟩ | rfl | rfl) h hwait hok hsleep hwake
  · obtain ⟨-, -, hp, m, -, hc, -⟩ | ⟨-, -, hnot⟩ := exec_init_cases h
    · simp [hp, hc, configWord_eq_setMode]
    · exact absurd hok (hnot hwait)
  · obtain rfl := Host.Outcome.next.inj ((exec_sleep s).symm.trans h)
    obtain ⟨hp, c, hc⟩ := rewriteMode_mode hwait hok fun d0 d1 => hsleep d0 d1 rfl
    simp [hp, hc]
  · obtain rfl := Host.Outcome.next.inj ((exec_wake s).symm.trans h)
    obtain ⟨hp, c, hc⟩ := rewriteMode_mode hwait hok fun d0 d1 => hwake d0 d1 rfl
    simp [hp, hc]

/-- If PSTATE differs between the two states, the second has a known power state and a successful CONFIG write
added to the record of the first. -/
def FollowsWrite (s t : State) : Prop :=
  t.pstate ≠ s.pstate →
    t.pstate ≠ .uninitialized ∧
      ∃ (new : List Transfer) (w : Word), t.bus = s.bus ++ new ∧ writeTransfer w ∈ new

theorem followsWrite_of_pstate_eq {s t : State} (h : t.pstate = s.pstate) : FollowsWrite s t :=
  fun hne => absurd h hne

theorem rewriteMode_followsWrite {edit : Word → Word} {p : PState} (hp : p ≠ .uninitialized) (s : State) :
    FollowsWrite s (rewriteMode edit p s) := by
  obtain ⟨d0, d1, h0, h1⟩ | ⟨-, hsame, -⟩ := rewriteMode_cases edit p s
  · rw [rewriteMode_ok rfl h0 h1]
    exact fun _ => ⟨hp, _, edit (mergeConfig s.sensor.config d0), rfl, by simp⟩
  · exact followsWrite_of_pstate_eq hsame

theorem exec_init_followsWrite {rate : Nat} {s t : State} (h : exec (.init rate) s = .next t) :
    FollowsWrite s t := by
  obtain ⟨-, -, hp, m, reads, -, hbus⟩ | ⟨-, hsame, -⟩ := exec_init_cases h
  · exact fun _ => ⟨by simp [hp], _, configWord m, hbus, List.mem_cons_self⟩
  · exact followsWrite_of_pstate_eq hsame

theorem exec_followsWrite {i : Instr} {s t : State} (h : exec i s = .next t) : FollowsWrite s t := by
  cases i with
  | init rate => exact exec_init_followsWrite h
  | sleep =>
    obtain rfl := Host.Outcome.next.inj ((exec_sleep s).symm.trans h)
    exact rewriteMode_followsWrite (by decide) s
  | wake =>
    obtain rfl := Host.Outcome.next.inj ((exec_wake s).symm.trans h)
    exact rewriteMode_followsWrite (by decide) s
  | rdvobj => exact followsWrite_of_pstate_eq (exec_read_keepsPower (by simp) h).pstate
  | rdtamb => exact followsWrite_of_pstate_eq (exec_read_keepsPower (by simp) h).pstate
  | rddiec => exact followsWrite_of_pstate_eq (exec_read_keepsPower (by simp) h).pstate
  | rdobjc => exact followsWrite_of_pstate_eq (exec_read_keepsPower (by simp) h).pstate

/-- Settles O50: an idle step and IllegalCommand leave PSTATE alone, and a command changes it only after its
CONFIG write. -/
theorem powerStateChangesOnlyByConfigWrite : Obligations.PowerStateChangesOnlyByConfigWrite := by
  unfold Obligations.PowerStateChangesOnlyByConfigWrite
  intro s t h
  exact step_keeps (R := FollowsWrite)
    (hidle := fun _ => followsWrite_of_pstate_eq rfl)
    (hcmds := fun _ _ _ hR => hR)
    (hillegal := fun _ => followsWrite_of_pstate_eq rfl)
    (hexec := fun _ _ _ _ he => exec_followsWrite he) h

end Sys2Proof.Machine
end

section
/-! PROOFS. No command looks at PSTATE or at the outcome of an earlier one (10_state.md R26, R32). -/

namespace Sys2Proof.Machine

/-- The two states differ in PSTATE and the outcome registers at most. -/
structure SameInputs (s s' : State) : Prop where
  sensor : s.sensor = s'.sensor
  waiting : s.waiting = s'.waiting
  cmds : s.cmds = s'.cmds
  answers : s.answers = s'.answers
  draws : s.draws = s'.draws
  bus : s.bus = s'.bus

/-- The same, with the same outcome where the command has ended. -/
structure SameEnd (t t' : State) : Prop extends SameInputs t t' where
  outcome : t.waiting = false → observe t = observe t'

section
variable {s s' : State}

theorem SameInputs.answerAt (h : SameInputs s s') (k : Nat) : answerAt s k = answerAt s' k := by
  simp [Machine.answerAt, h.answers, h.draws]

theorem SameInputs.transact (h : SameInputs s s') (q : Request) (a : Response) (v : Sensor) :
    SameInputs (transact q a v s) (transact q a v s') where
  sensor := rfl
  waiting := h.waiting
  cmds := h.cmds
  answers := congrArg List.tail h.answers
  draws := congrArg (· + 1) h.draws
  bus := by rw [transact_bus, transact_bus, h.bus]

theorem SameInputs.setPState (h : SameInputs s s') (p : PState) :
    SameInputs (setPState p s) (setPState p s') := { h with }

theorem SameInputs.raise (h : SameInputs s s') (f : CmdFault) : SameEnd (raise f s) (raise f s') :=
  { h with outcome := fun _ => rfl }

theorem SameInputs.complete (h : SameInputs s s') (k : RKind) (v : Option F64) :
    SameEnd (complete k v s) (complete k v s') :=
  { h with outcome := fun _ => rfl }

theorem SameInputs.hang (h : SameInputs s s') : SameEnd (hang s) (hang s') :=
  { h with waiting := rfl, outcome := nofun }

/-- A read gets the same answer in both states, and goes on in both or ends in both. -/
theorem memRead_sameEnd {r : Reg} {next next' : Word → State → State} (h : SameInputs s s')
    (hnext : ∀ w u u', SameInputs u u' → SameEnd (next w u) (next' w u')) :
    SameEnd (memRead r s next) (memRead r s' next') := by
  have h0' := (h.answerAt 0).symm
  cases h0 : answerAt s 0 with
  | ok draw =>
    rw [memRead_ok h0, memRead_ok (h0'.trans h0), h.sensor]
    exact hnext _ _ _ (h.transact _ _ _)
  | fail e left =>
    rw [memRead_fail h0, memRead_fail (h0'.trans h0), h.sensor]
    exact (h.transact _ _ _).raise _
  | never left =>
    rw [memRead_never h0, memRead_never (h0'.trans h0), h.sensor]
    exact (h.transact _ _ _).hang

/-- A write in the same way. -/
theorem memWrite_sameEnd {w : Word} {next next' : State → State} (h : SameInputs s s')
    (hnext : ∀ u u', SameInputs u u' → SameEnd (next u) (next' u')) :
    SameEnd (memWrite w s next) (memWrite w s' next') := by
  have h0' := (h.answerAt 0).symm
  cases h0 : answerAt s 0 with
  | ok draw =>
    rw [memWrite_ok h0, memWrite_ok (h0'.trans h0), h.sensor]
    exact hnext _ _ (h.transact _ _ _)
  | fail e left =>
    rw [memWrite_fail h0, memWrite_fail (h0'.trans h0), h.sensor]
    exact (h.transact _ _ _).raise _
  | never left =>
    rw [memWrite_never h0, memWrite_never (h0'.trans h0), h.sensor]
    exact (h.transact _ _ _).hang

theorem rewriteMode_sameEnd (h : SameInputs s s') (edit : Word → Word) (p : PState) :
    SameEnd (rewriteMode edit p s) (rewriteMode edit p s') :=
  memRead_sameEnd h fun _ _ _ h0 => memWrite_sameEnd h0 fun _ _ h1 => (h1.setPState p).complete _ _

theorem checkIdentity_sameEnd (h : SameInputs s s') : SameEnd (checkIdentity s) (checkIdentity s') :=
  memRead_sameEnd h fun _ _ _ h0 => memRead_sameEnd h0 fun _ _ _ h1 => h1.complete _ _

/-- Every command, run in both states, asks the same and ends the same. The draw numbers agree too, so the
conversions draw the same NaN. -/
theorem exec_sameEnd {i : Instr} {t t' : State} (h : SameInputs s s') (ht : exec i s = .next t)
    (ht' : exec i s' = .next t') : SameEnd t t' := by
  cases i with
  | init rate =>
    cases hm : crmask rate with
    | none =>
      rw [exec_init_illegal hm] at ht ht'
      obtain rfl := Host.Outcome.next.inj ht
      obtain rfl := Host.Outcome.next.inj ht'
      exact h.raise _
    | some m =>
      rw [exec_init_legal hm] at ht ht'
      obtain rfl := Host.Outcome.next.inj ht
      obtain rfl := Host.Outcome.next.inj ht'
      exact memWrite_sameEnd h fun _ _ h0 => checkIdentity_sameEnd (h0.setPState _)
  | sleep =>
    obtain rfl := Host.Outcome.next.inj ht
    obtain rfl := Host.Outcome.next.inj ht'
    exact rewriteMode_sameEnd h _ _
  | wake =>
    obtain rfl := Host.Outcome.next.inj ht
    obtain rfl := Host.Outcome.next.inj ht'
    exact rewriteMode_sameEnd h _ _
  | rdvobj =>
    obtain rfl := Host.Outcome.next.inj ht
    obtain rfl := Host.Outcome.next.inj ht'
    exact memRead_sameEnd h fun _ _ _ h0 => h0.complete _ _
  | rdtamb =>
    obtain rfl := Host.Outcome.next.inj ht
    obtain rfl := Host.Outcome.next.inj ht'
    exact memRead_sameEnd h fun _ _ _ h0 => h0.complete _ _
  | rddiec =>
    obtain rfl := Host.Outcome.next.inj ht
    obtain rfl := Host.Outcome.next.inj ht'
    exact memRead_sameEnd h fun _ _ _ h0 => by rw [h0.draws]; exact h0.complete _ _
  | rdobjc =>
    obtain rfl := Host.Outcome.next.inj ht
    obtain rfl := Host.Outcome.next.inj ht'
    exact memRead_sameEnd h fun _ _ _ h0 => memRead_sameEnd h0 fun _ _ _ h1 => by
      rw [h1.draws]; exact h1.complete _ _

end

/-- Settles O52: the two states of the statement are the same to every transaction, draw and end of a
command. -/
theorem commandsIgnoreEarlierOutcomes : Obligations.CommandsIgnoreEarlierOutcomes := by
  unfold Obligations.CommandsIgnoreEarlierOutcomes
  intro i s s' t t' hs ht ht'
  have hin : SameInputs s s' := by rw [hs]; exact ⟨rfl, rfl, rfl, rfl, rfl, rfl⟩
  obtain ⟨⟨hsensor, hwaiting, hcmds, hanswers, hdraws, hbus⟩, houtcome⟩ := exec_sameEnd hin ht ht'
  exact ⟨hsensor, hwaiting, hcmds, hanswers, hdraws, hbus, houtcome⟩

end Sys2Proof.Machine
end

section
/-! PROOFS. What a command uses up: one word, and at most three transactions with one answer and one draw number
each (10_state.md R30, R31; 20_memory.md R72). -/

namespace Sys2Proof.Machine

/-- From `s` to `t` at most `n` transactions have been made, each with one answer and one draw number, and no
command word has been taken. -/
def Uses (n : Nat) (s t : State) : Prop :=
  t.cmds = s.cmds ∧
    ∃ new : List Transfer, t.bus = s.bus ++ new ∧ new.length ≤ n ∧
      t.answers = s.answers.drop new.length ∧ t.draws = s.draws + new.length

section
variable {n m : Nat} {s t : State}

theorem Uses.refl (s : State) : Uses 0 s s := ⟨rfl, [], by simp⟩

theorem Uses.mono (h : Uses n s t) (hnm : n ≤ m) : Uses m s t := by
  obtain ⟨hcmds, new, hbus, hlen, hrest⟩ := h
  exact ⟨hcmds, new, hbus, hlen.trans hnm, hrest⟩

theorem Uses.transact (h : Uses n s t) (q : Request) (a : Response) (v : Sensor) :
    Uses (n + 1) s (transact q a v t) := by
  obtain ⟨hcmds, new, hbus, hlen, hanswers, hdraws⟩ := h
  refine ⟨hcmds, new ++ [{ req := q, res := a }], ?_, ?_, ?_, ?_⟩
  · rw [transact_bus, hbus, List.append_assoc]
  · simpa using hlen
  · rw [transact_answers, hanswers, List.tail_drop, List.length_append, List.length_singleton]
  · rw [transact_draws, hdraws, List.length_append, List.length_singleton, Nat.add_assoc]

theorem Uses.raise (h : Uses n s t) (f : CmdFault) : Uses n s (raise f t) := h

theorem Uses.hang (h : Uses n s t) : Uses n s (hang t) := h

theorem Uses.complete (h : Uses n s t) (k : RKind) (v : Option F64) : Uses n s (complete k v t) := h

theorem Uses.setPState (h : Uses n s t) (p : PState) : Uses n s (setPState p t) := h

/-- A read is one transaction more, whether the command goes on after it or ends with it. -/
theorem memRead_uses {r : Reg} {next : Word → State → State} (h : Uses n s t) (hnm : n + 1 ≤ m)
    (hnext : ∀ w u, Uses (n + 1) s u → Uses m s (next w u)) : Uses m s (memRead r t next) :=
  memRead_cases (Uses m s) (fun _ _ => hnext _ _ (h.transact _ _ _))
    (fun _ _ _ => ((h.transact _ _ _).mono hnm).raise _) (fun _ _ => ((h.transact _ _ _).mono hnm).hang)

/-- A write in the same way. -/
theorem memWrite_uses {w : Word} {next : State → State} (h : Uses n s t) (hnm : n + 1 ≤ m)
    (hnext : ∀ u, Uses (n + 1) s u → Uses m s (next u)) : Uses m s (memWrite w t next) :=
  memWrite_cases (Uses m s) (fun _ _ => hnext _ (h.transact _ _ _))
    (fun _ _ _ => ((h.transact _ _ _).mono hnm).raise _) (fun _ _ => ((h.transact _ _ _).mono hnm).hang)

end

theorem rewriteMode_uses (edit : Word → Word) (p : PState) (s : State) :
    Uses 2 s (rewriteMode edit p s) :=
  memRead_uses (.refl s) (by decide) fun _ _ h0 => memWrite_uses h0 (by decide) fun _ h1 =>
    (h1.setPState p).complete _ _

theorem checkIdentity_uses {n : Nat} {s t : State} (h : Uses n s t) : Uses (n + 2) s (checkIdentity t) :=
  memRead_uses h (by omega) fun _ _ h0 => memRead_uses h0 le_rfl fun _ _ h1 => h1.complete _ _

/-- R72: the longest row of the table has three transactions. -/
theorem exec_uses {i : Instr} {s t : State} (h : exec i s = .next t) : Uses 3 s t := by
  cases i with
  | init rate =>
    cases hm : crmask rate with
    | none =>
      obtain rfl := Host.Outcome.next.inj ((exec_init_illegal hm s).symm.trans h)
      exact (Uses.refl s).mono (by decide)
    | some m =>
      obtain rfl := Host.Outcome.next.inj ((exec_init_legal hm s).symm.trans h)
      exact memWrite_uses (.refl s) (by decide) fun _ h0 =>
        checkIdentity_uses (h0.setPState _)
  | sleep =>
    obtain rfl := Host.Outcome.next.inj ((exec_sleep s).symm.trans h)
    exact (rewriteMode_uses _ _ s).mono (by decide)
  | wake =>
    obtain rfl := Host.Outcome.next.inj ((exec_wake s).symm.trans h)
    exact (rewriteMode_uses _ _ s).mono (by decide)
  | rdvobj =>
    obtain rfl := Host.Outcome.next.inj h
    exact memRead_uses (.refl s) (by decide) fun _ _ h0 => (h0.mono (by decide)).complete _ _
  | rdtamb =>
    obtain rfl := Host.Outcome.next.inj h
    exact memRead_uses (.refl s) (by decide) fun _ _ h0 => (h0.mono (by decide)).complete _ _
  | rddiec =>
    obtain rfl := Host.Outcome.next.inj h
    exact memRead_uses (.refl s) (by decide) fun _ _ h0 => (h0.mono (by decide)).complete _ _
  | rdobjc =>
    obtain rfl := Host.Outcome.next.inj h
    exact memRead_uses (.refl s) (by decide) fun _ _ h0 =>
      memRead_uses h0 (by decide) fun _ _ h1 => (h1.mono (by decide)).complete _ _

/-- Settles O53: the step takes the word in front, and IllegalCommand makes no transaction, a command at most
three. -/
theorem stepTakesOneCommand : Obligations.StepTakesOneCommand := by
  unfold Obligations.StepTakesOneCommand
  intro s t h hne
  obtain ⟨-, ⟨hnil, -⟩ | ⟨w, rest, hcmds, hrun⟩⟩ := step_cases h
  · exact absurd hnil hne
  have huses : Uses 3 { s with cmds := rest } t := by
    obtain ⟨_, _, rfl⟩ | ⟨i, _, he⟩ := hrun
    · exact (Uses.refl _).mono (by decide)
    · exact exec_uses he
  rwa [hcmds]

end Sys2Proof.Machine
end

section
/-! PROOFS. The transactions of a command (20_memory.md R65, R72; 60_exceptions.md R183). -/

namespace Sys2Proof.Machine

/-- From `s` to `t` the record grows by transactions that follow the row; a command that ends with STATUS OK
has made the whole row, each transaction with success. -/
def FollowsRow (row : List Access) (s t : State) : Prop :=
  ∃ new, t.bus = s.bus ++ new ∧ followsTable row new = true ∧
    (t.waiting = false → t.status = .ok →
      new.map (fun x => x.req.access) = row.map some ∧ new.all Transfer.succeeded = true)

@[simp] theorem access_read (r : Reg) : (Request.read r.addr).access = some (.r r) := by
  simp [Request.access]

@[simp] theorem access_configWrite (w : Word) : (configWrite w).access = some (.w .config) := rfl

/-! ### The end of a row -/

/-- R110: a command ends with success where nothing is left of its row. -/
theorem followsRow_complete (k : RKind) (v : Option F64) (s : State) :
    FollowsRow [] s (complete k v s) :=
  ⟨[], by simp, rfl, fun _ _ => ⟨rfl, rfl⟩⟩

/-- R183: a fault raised before any transaction makes none. -/
theorem followsRow_raise (row : List Access) (f : CmdFault) (s : State) : FollowsRow row s (raise f s) :=
  ⟨[], by simp, by cases row <;> rfl, fun _ hok => by cases f <;> cases hok⟩

section
variable {a : Access} {row : List Access} {q : Request} {v : Sensor} {s t : State}

/-- A transaction that fails ends the command with STATUS TransportError. -/
theorem followsRow_fail (hq : q.access = some a) (e : TransportErr) :
    FollowsRow (a :: row) s (raise (.transportError e) (transact q (.failed e) v s)) :=
  ⟨[{ req := q, res := .failed e }], rfl, by simp [followsTable, hq, Transfer.succeeded], fun _ => nofun⟩

/-- A transaction that is never answered leaves the converter waiting. -/
theorem followsRow_hang (hq : q.access = some a) :
    FollowsRow (a :: row) s (hang (transact q .pending v s)) :=
  ⟨[{ req := q, res := .pending }], rfl, by simp [followsTable, hq, Transfer.succeeded], nofun⟩

/-! ### The next transaction of a row -/

/-- A transaction that succeeds is the first of the row if what comes after it follows the rest. -/
theorem FollowsRow.cons {res : Response} (hq : q.access = some a)
    (hres : Transfer.succeeded { req := q, res := res } = true)
    (h : FollowsRow row (transact q res v s) t) : FollowsRow (a :: row) s t := by
  obtain ⟨new, hbus, hfollows, hend⟩ := h
  refine ⟨{ req := q, res := res } :: new, by simpa using hbus, by simp [followsTable, hq, hres, hfollows],
    fun hwait hok => ?_⟩
  obtain ⟨hmap, hall⟩ := hend hwait hok
  exact ⟨by simp [hq, hmap], by rw [List.all_cons, hres, hall, Bool.and_self]⟩

theorem memRead_followsRow {r : Reg} {next : Word → State → State}
    (hnext : ∀ w u, FollowsRow row u (next w u)) : FollowsRow (.r r :: row) s (memRead r s next) :=
  memRead_cases (FollowsRow (.r r :: row) s) (fun _ _ => (hnext _ _).cons (access_read r) rfl)
    (fun e _ _ => followsRow_fail (access_read r) e) (fun _ _ => followsRow_hang (access_read r))

theorem memWrite_followsRow {w : Word} {next : State → State} (hnext : ∀ u, FollowsRow row u (next u)) :
    FollowsRow (.w .config :: row) s (memWrite w s next) :=
  memWrite_cases (FollowsRow (.w .config :: row) s) (fun _ _ => (hnext _).cons (access_configWrite w) rfl)
    (fun e _ _ => followsRow_fail (access_configWrite w) e)
    (fun _ _ => followsRow_hang (access_configWrite w))

end

/-! ### The rows of R72 -/

/-- Writing PSTATE is no transaction. -/
theorem FollowsRow.of_setPState {row : List Access} {p : PState} {s t : State}
    (h : FollowsRow row (setPState p s) t) : FollowsRow row s t := h

theorem rewriteMode_followsRow (edit : Word → Word) (p : PState) (s : State) :
    FollowsRow [.r .config, .w .config] s (rewriteMode edit p s) :=
  memRead_followsRow fun _ _ => memWrite_followsRow fun _ => (followsRow_complete _ _ _).of_setPState

theorem checkIdentity_followsRow (s : State) : FollowsRow [.r .manid, .r .devid] s (checkIdentity s) :=
  memRead_followsRow fun _ _ => memRead_followsRow fun _ _ => followsRow_complete _ _ _

/-- R72: every command follows its row of the table. -/
theorem exec_followsRow {i : Instr} {s t : State} (h : exec i s = .next t) :
    FollowsRow (transactionsOf i) s t := by
  cases i with
  | init rate =>
    cases hm : crmask rate with
    | none =>
      obtain rfl := Host.Outcome.next.inj ((exec_init_illegal hm s).symm.trans h)
      exact followsRow_raise _ _ s
    | some m =>
      obtain rfl := Host.Outcome.next.inj ((exec_init_legal hm s).symm.trans h)
      exact memWrite_followsRow fun _ => (checkIdentity_followsRow _).of_setPState
  | sleep =>
    obtain rfl := Host.Outcome.next.inj ((exec_sleep s).symm.trans h)
    exact rewriteMode_followsRow _ _ s
  | wake =>
    obtain rfl := Host.Outcome.next.inj ((exec_wake s).symm.trans h)
    exact rewriteMode_followsRow _ _ s
  | rdvobj =>
    obtain rfl := Host.Outcome.next.inj h
    exact memRead_followsRow fun _ _ => followsRow_complete _ _ _
  | rdtamb =>
    obtain rfl := Host.Outcome.next.inj h
    exact memRead_followsRow fun _ _ => followsRow_complete _ _ _
  | rddiec =>
    obtain rfl := Host.Outcome.next.inj h
    exact memRead_followsRow fun _ _ => followsRow_complete _ _ _
  | rdobjc =>
    obtain rfl := Host.Outcome.next.inj h
    exact memRead_followsRow fun _ _ => memRead_followsRow fun _ _ => followsRow_complete _ _ _

/-- Settles O45: each transaction of a command is the next of its row, and a failed or unanswered one is the
last. -/
theorem commandsFollowTransactionTable : Obligations.CommandsFollowTransactionTable :=
  fun _ _ _ h => exec_followsRow h

end Sys2Proof.Machine
end

section
/-! PROOFS. What a step leaves alone of the sensor: the identifiers (20_memory.md R62), and bits 14:8 of CONFIG
where it asks for no write (R61). -/

namespace Sys2Proof.Machine

/-! ### The identifiers -/

/-- MANID and DEVID are as in `s`. -/
structure KeepsIdentity (s t : State) : Prop where
  manid : t.sensor.manid = s.sensor.manid
  devid : t.sensor.devid = s.sensor.devid

theorem KeepsIdentity.refl (s : State) : KeepsIdentity s s := ⟨rfl, rfl⟩

theorem KeepsIdentity.transact {s t : State} (h : KeepsIdentity s t) (q : Request) (a : Response)
    {v : Sensor} (hm : v.manid = t.sensor.manid) (hd : v.devid = t.sensor.devid) :
    KeepsIdentity s (transact q a v t) :=
  ⟨hm.trans h.manid, hd.trans h.devid⟩

theorem KeepsIdentity.raise {s t : State} (h : KeepsIdentity s t) (f : CmdFault) :
    KeepsIdentity s (raise f t) := ⟨h.manid, h.devid⟩

theorem KeepsIdentity.hang {s t : State} (h : KeepsIdentity s t) : KeepsIdentity s (hang t) :=
  ⟨h.manid, h.devid⟩

/-- R62: a read shows the identifiers and draws none of their bits, and a write reaches CONFIG only. -/
theorem exec_keepsIdentity {i : Instr} {s t : State} (h : exec i s = .next t) : KeepsIdentity s t :=
  exec_keeps (M := KeepsIdentity s) (E := KeepsIdentity s)
    (hread := fun _ _ _ hm => hm.transact _ _ (by simp) (by simp))
    (hreadFail := fun _ _ _ hm => (hm.transact _ _ rfl rfl).raise _)
    (hreadNever := fun _ _ hm => (hm.transact _ _ rfl rfl).hang)
    (hwrite := fun _ _ _ hm => hm.transact _ _ (by simp) (by simp))
    (hwriteFail := fun _ _ _ _ hm => (hm.transact _ _ (by simp) (by simp)).raise _)
    (hwriteNever := fun _ _ _ hm => (hm.transact _ _ (by simp) (by simp)).hang)
    (hpower := fun _ _ hm => ⟨hm.manid, hm.devid⟩)
    (hcomplete := fun _ _ _ _ hm => ⟨hm.manid, hm.devid⟩)
    (hrefuse := fun _ hm => hm.raise _)
    (.refl s) h

/-- Settles O49: an idle step and IllegalCommand leave the sensor alone, and a command keeps the
identifiers. -/
theorem identityRegistersNeverChange : Obligations.IdentityRegistersNeverChange := by
  unfold Obligations.IdentityRegistersNeverChange
  intro s t h
  obtain ⟨hmanid, hdevid⟩ := step_keeps (R := KeepsIdentity)
    (hidle := .refl)
    (hcmds := fun _ _ _ hR => ⟨hR.manid, hR.devid⟩)
    (hillegal := fun s => (KeepsIdentity.refl s).raise _)
    (hexec := fun _ _ _ _ he => exec_keepsIdentity he) h
  exact ⟨hmanid, hdevid⟩

/-! ### Bits 14:8 of CONFIG -/

/-- R61: the sensor draws none of the bits 14:8. -/
theorem mergeConfig_kept (c draw : Word) : mergeConfig c draw &&& configKept = c &&& configKept := by
  ext i hi
  simp only [mergeConfig, BitVec.getElem_and, BitVec.getElem_or, BitVec.getElem_not]
  cases configKept[i] <;> simp

/-- R61, R66: the sensor's move before a read, of whatever register, keeps the bits 14:8 of CONFIG. -/
theorem Sensor.move_config_kept (v : Sensor) (r : Reg) (draw : Word) :
    (v.move r draw).config &&& configKept = v.config &&& configKept := by
  cases r with
  | config => exact mergeConfig_kept v.config draw
  | vobj => rfl
  | tamb => rfl
  | manid => rfl
  | devid => rfl

/-- The record has at most grown, and bits 14:8 of CONFIG are as in `s` unless a CONFIG write was added
to it. -/
def ConfigFollowsWrite (s t : State) : Prop :=
  ∃ new : List Transfer, t.bus = s.bus ++ new ∧
    (t.sensor.config &&& configKept = s.sensor.config &&& configKept ∨
      ∃ (w : Word) (res : Response), { req := configWrite w, res := res } ∈ new)

section
variable {s t : State} {v : Sensor}

theorem ConfigFollowsWrite.refl (s : State) : ConfigFollowsWrite s s :=
  ⟨[], (List.append_nil _).symm, .inl rfl⟩

theorem ConfigFollowsWrite.raise (h : ConfigFollowsWrite s t) (f : CmdFault) :
    ConfigFollowsWrite s (raise f t) := h

theorem ConfigFollowsWrite.hang (h : ConfigFollowsWrite s t) : ConfigFollowsWrite s (hang t) := h

/-- A transaction that keeps the bits 14:8, whatever it asks for. -/
theorem ConfigFollowsWrite.transact (h : ConfigFollowsWrite s t) (q : Request) (a : Response)
    (hv : v.config &&& configKept = t.sensor.config &&& configKept) :
    ConfigFollowsWrite s (transact q a v t) := by
  obtain ⟨new, hbus, hconfig⟩ := h
  refine ⟨new ++ [{ req := q, res := a }], by rw [transact_bus, hbus, List.append_assoc], ?_⟩
  exact hconfig.imp hv.trans fun ⟨w, res, hmem⟩ => ⟨w, res, List.mem_append_left _ hmem⟩

/-- A CONFIG write, whatever it leaves in the sensor. -/
theorem ConfigFollowsWrite.write (h : ConfigFollowsWrite s t) (w : Word) (a : Response) (v : Sensor) :
    ConfigFollowsWrite s (Machine.transact (configWrite w) a v t) := by
  obtain ⟨new, hbus, -⟩ := h
  exact ⟨new ++ [{ req := configWrite w, res := a }], by rw [transact_bus, hbus, List.append_assoc],
    .inr ⟨w, a, List.mem_append_right _ List.mem_cons_self⟩⟩

end

theorem exec_configFollowsWrite {i : Instr} {s t : State} (h : exec i s = .next t) :
    ConfigFollowsWrite s t :=
  exec_keeps (M := ConfigFollowsWrite s) (E := ConfigFollowsWrite s)
    (hread := fun r u draw hm => hm.transact _ _ (u.sensor.move_config_kept r draw))
    (hreadFail := fun _ _ _ hm => (hm.transact _ _ rfl).raise _)
    (hreadNever := fun _ _ hm => (hm.transact _ _ rfl).hang)
    (hwrite := fun _ _ _ hm => hm.write _ _ _)
    (hwriteFail := fun _ _ _ _ hm => (hm.write _ _ _).raise _)
    (hwriteNever := fun _ _ _ hm => (hm.write _ _ _).hang)
    (hpower := fun _ _ hm => hm)
    (hcomplete := fun _ _ _ _ hm => hm)
    (hrefuse := fun _ hm => hm.raise _)
    (.refl s) h

/-- Settles O51: an idle step and IllegalCommand leave CONFIG alone, a read keeps its bits 14:8, and a write
that may change them is recorded whatever the answer. -/
theorem configChangesOnlyByWrite : Obligations.ConfigChangesOnlyByWrite := by
  unfold Obligations.ConfigChangesOnlyByWrite
  intro s t h hne
  obtain ⟨new, hbus, hconfig⟩ := step_keeps (R := ConfigFollowsWrite)
    (hidle := .refl)
    (hcmds := fun _ _ _ hR => hR)
    (hillegal := fun s => (ConfigFollowsWrite.refl s).raise _)
    (hexec := fun _ _ _ _ he => exec_configFollowsWrite he) h
  obtain ⟨w, res, hmem⟩ := hconfig.resolve_left hne
  exact ⟨new, w, res, hbus, hmem⟩

end Sys2Proof.Machine
end

section
/-! PROOFS. The bytes of a word on the bus (20_memory.md R53, R54) and the device's address map (R51, R52). -/

namespace Sys2Proof.Machine

/-! ### The bytes -/

theorem toNat_firstByte (v : Word) : (firstByte v).toNat = v.toNat / 256 := by
  have := v.isLt
  simp only [firstByte, BitVec.extractLsb'_toNat, Nat.shiftRight_eq_div_pow]
  omega

theorem toNat_secondByte (v : Word) : (secondByte v).toNat = v.toNat % 256 := by
  simp [secondByte]

/-- Settles O43: the bytes are the quotient and the remainder of the word by 256. -/
theorem busIsBigEndian : Obligations.BusIsBigEndian :=
  fun v => ⟨toNat_firstByte v, toNat_secondByte v, wordOfBytes_bytes v⟩

/-! ### The address map -/

/-- R51: an address names the register whose address it is. -/
theorem regAt_eq_some_iff {a : Addr} {r : Reg} : regAt a = some r ↔ a = r.addr := by
  constructor
  · intro h
    unfold regAt at h
    split at h <;> cases h <;> exact BitVec.eq_of_toNat_eq ‹_›
  · rintro rfl
    exact regAt_addr r

/-- R52: the addresses that name no register. -/
theorem regAt_eq_none_iff {a : Addr} : regAt a = none ↔ 0x03 ≤ a.toNat ∧ a.toNat ≤ 0xFD := by
  have := a.isLt
  unfold regAt
  split
  case h_6 h0 h1 h2 hFE hFF =>
    simp only [imp_false] at h0 h1 h2 hFE hFF
    exact iff_of_true rfl (by omega)
  all_goals simp [*]

/-- R52: a read is refused where no register is, and answers everywhere else. -/
theorem deviceRead_refused_iff {a : Addr} {s : State} {next : Word → State → State} :
    deviceRead a s next = .refused (.unmappedRegister a) ↔ regAt a = none := by
  cases h : regAt a <;> simp [deviceRead, h]

theorem deviceRead_next_iff {a : Addr} {s : State} {next : Word → State → State} :
    (∃ t, deviceRead a s next = .next t) ↔ regAt a ≠ none := by
  cases h : regAt a <;> simp [deviceRead, h]

/-- R52: a write is refused as unmapped where no register is; a read-only register refuses it by another
name (log 23). -/
theorem deviceWrite_refused_iff {a : Addr} {w : Word} {s : State} {next : State → State} :
    deviceWrite a w s next = .refused (.unmappedRegister a) ↔ regAt a = none := by
  cases h : regAt a with
  | none => simp [deviceWrite, h]
  | some r => cases r <;> simp [deviceWrite, h]

/-- R51: a write answers at CONFIG only. -/
theorem deviceWrite_next_iff {a : Addr} {w : Word} {s : State} {next : State → State} :
    (∃ t, deviceWrite a w s next = .next t) ↔ regAt a = some .config := by
  cases h : regAt a with
  | none => simp [deviceWrite, h]
  | some r => cases r <;> simp [deviceWrite, h]

/-- Settles O44: what the device answers is decided by the register at the address. -/
theorem deviceRefusesUnmappedAddresses : Obligations.DeviceRefusesUnmappedAddresses := by
  unfold Obligations.DeviceRefusesUnmappedAddresses
  intro a w s nextR nextW
  rw [← regAt_eq_none_iff]
  exact ⟨deviceRead_refused_iff, deviceWrite_refused_iff, deviceRead_next_iff,
    deviceWrite_next_iff.trans regAt_eq_some_iff⟩

end Sys2Proof.Machine
end

section
/-! PROOFS. The command word (30_encoding.md R80 to R85): the decoder and the encoder, and the words neither the
decoder nor the opcode table knows. -/

namespace Sys2Proof.Machine

/-! ### The decoder and the encoder -/

theorem noOperand_eq_ok_iff {i j : Instr} {op imm : Byte} :
    noOperand i op imm = .ok j ↔ imm = 0#8 ∧ i = j := by
  unfold noOperand
  split <;> simp [*]

theorem noOperand_eq_error_iff {i : Instr} {op imm : Byte} :
    (∃ e, noOperand i op imm = .error e) ↔ imm ≠ 0#8 := by
  unfold noOperand
  split <;> simp [*]

/-- R82: the fields decode to exactly the well-formed command whose fields they are. -/
theorem decodeFields_eq_ok_iff {op imm : Byte} {i : Instr} :
    decodeFields op imm = .ok i ↔ i.WellFormed ∧ op = opcode i ∧ imm = immediate i := by
  constructor
  · intro h
    unfold decodeFields at h
    split at h
    case h_1 hop =>
      cases h
      exact ⟨decide_eq_true imm.isLt, BitVec.eq_of_toNat_eq hop, by simp [immediate]⟩
    case h_8 => cases h
    all_goals
      obtain ⟨himm, rfl⟩ := noOperand_eq_ok_iff.mp h
      exact ⟨rfl, BitVec.eq_of_toNat_eq ‹_›, himm⟩
  · rintro ⟨hwf, rfl, rfl⟩
    cases i with
    | init rate =>
      have hrate : rate < 256 := of_decide_eq_true hwf
      simp [decodeFields, opcode, immediate, Nat.mod_eq_of_lt hrate]
    | sleep | wake | rdvobj | rdtamb | rddiec | rdobjc => rfl

/-- R80: a word is its two fields, `op` in the high byte. -/
theorem opField_append_immField (w : Word) : opField w ++ immField w = w := wordOfBytes_bytes w

theorem eq_encode_iff {w : Word} {i : Instr} :
    w = encode i ↔ opField w = opcode i ∧ immField w = immediate i := by
  constructor
  · rintro rfl
    exact Laws.FitsRow.fields _ _
  · rintro ⟨hop, himm⟩
    rw [encode, ← hop, ← himm, opField_append_immField]

/-- R80 to R84: a word decodes to exactly the well-formed command whose word it is. -/
theorem decode_eq_ok_iff {w : Word} {i : Instr} : decode w = .ok i ↔ i.WellFormed ∧ w = encode i := by
  rw [decode, decodeFields_eq_ok_iff, eq_encode_iff]

/-- Settles O3: the word of a command has the command's fields, and they decode to it. -/
theorem decodeOfEncodeGivesCommand : Obligations.DecodeOfEncodeGivesCommand :=
  fun _ hwf => decode_eq_ok_iff.mpr ⟨hwf, rfl⟩

/-- Settles O4: a word that decodes has the fields of the command, and a word is its two fields. -/
theorem encodeOfDecodeGivesWord : Obligations.EncodeOfDecodeGivesWord := by
  unfold Obligations.EncodeOfDecodeGivesWord
  intro w i h
  obtain ⟨hwf, hw⟩ := decode_eq_ok_iff.mp h
  exact ⟨hwf, hw.symm⟩

/-! ### Illegal words -/

theorem exists_eq_error_iff {ε α : Type} (x : Except ε α) : (∃ e, x = .error e) ↔ ¬∃ a, x = .ok a := by
  cases x <;> simp

/-- R85: the fields that stand for no command. -/
theorem decodeFields_eq_error_iff {op imm : Byte} :
    (∃ e, decodeFields op imm = .error e) ↔
      (op.toNat = 0x00 ∨ 0x08 ≤ op.toNat ∨ (0x02 ≤ op.toNat ∧ op.toNat ≤ 0x07 ∧ imm ≠ 0x00#8)) := by
  unfold decodeFields
  split
  case h_1 h => simp [h]
  case h_8 h1 h2 h3 h4 h5 h6 h7 =>
    simp only [imp_false] at h1 h2 h3 h4 h5 h6 h7
    exact iff_of_true ⟨_, rfl⟩ (by omega)
  all_goals simp [noOperand_eq_error_iff, *]

theorem fits_encode {i : Instr} (hwf : i.WellFormed) : (opcodeRow i).fits (encode i) = true := by
  have hrow : Laws.FitsRow.Statement i := by
    cases i with
    | init rate => exact Laws.FitsRow.init rate
    | sleep => exact Laws.FitsRow.sleep
    | wake => exact Laws.FitsRow.wake
    | rdvobj => exact Laws.FitsRow.rdvobj
    | rdtamb => exact Laws.FitsRow.rdtamb
    | rddiec => exact Laws.FitsRow.rddiec
    | rdobjc => exact Laws.FitsRow.rdobjc
  exact (hrow hwf).1

theorem opcodeRow_mem_opcodeTable (i : Instr) : opcodeRow i ∈ opcodeTable := by
  cases i <;> simp [opcodeTable, opcodeRow]

/-- A word fits a row that fixes every bit only when it is the row's word. -/
theorem fits_full_iff {v w : Word} :
    OpcodeRow.fits { mask := 0xFFFF#16, value := v } w = true ↔ w = v := by
  have hmask : w &&& 0xFFFF#16 = w := BitVec.and_allOnes
  simp [OpcodeRow.fits, hmask]

/-- A word fits the row of INIT by its `op` alone. -/
theorem opField_of_fits_init {rate : Nat} {w : Word} (h : (opcodeRow (.init rate)).fits w = true) :
    opField w = 0x01#8 := by
  have hw : w &&& 0xFF00#16 = 0x0100#16 := beq_iff_eq.mp h
  have hmask : opField (w &&& 0xFF00#16) = opField w := by
    unfold opField
    rw [BitVec.extractLsb'_and]
    exact BitVec.and_allOnes
  rw [← hmask, hw]
  rfl

theorem decode_of_fits {i : Instr} {w : Word} (h : (opcodeRow i).fits w = true) :
    ∃ j, decode w = .ok j := by
  cases i with
  | init rate => exact ⟨.init (immField w).toNat, by rw [decode, opField_of_fits_init h]; rfl⟩
  | sleep | wake | rdvobj | rdtamb | rddiec | rdobjc =>
    obtain rfl := fits_full_iff.mp h
    exact ⟨_, rfl⟩

/-- R82, R173: the words that match a row of the table are the words that decode. -/
theorem inOpcodeTable_iff (w : Word) : inOpcodeTable w = true ↔ ∃ i, decode w = .ok i := by
  rw [inOpcodeTable, List.any_eq_true]
  constructor
  · rintro ⟨row, hrow, hfits⟩
    obtain ⟨i, -, rfl⟩ := List.mem_map.mp hrow
    exact decode_of_fits hfits
  · rintro ⟨i, hi⟩
    obtain ⟨hwf, rfl⟩ := decode_eq_ok_iff.mp hi
    exact ⟨opcodeRow i, opcodeRow_mem_opcodeTable i, fits_encode hwf⟩

/-- Settles O5: the fields decide which words the decoder rejects, and the words it takes are the table's. -/
theorem decoderRejectsExactlyIllegalWords : Obligations.DecoderRejectsExactlyIllegalWords := by
  unfold Obligations.DecoderRejectsExactlyIllegalWords
  intro w
  refine ⟨decodeFields_eq_error_iff, ?_⟩
  rw [exists_eq_error_iff, ← inOpcodeTable_iff, Bool.not_eq_true]

/-- Settles O6: the decoder evaluated on each word. -/
theorem writtenOutWordsDecode : Obligations.WrittenOutWordsDecode := by
  unfold Obligations.WrittenOutWordsDecode
  decide

end Sys2Proof.Machine
end

section
/-! PROOFS. The assembler's line (30_encoding.md R99, R100). -/

namespace Sys2Proof.Machine

theorem decimalDigit_of_isDigit {c : Char} (h : c.isDigit = true) :
    decimalDigit c = some (c.toNat - '0'.toNat) := by
  simp only [Char.isDigit, Bool.and_eq_true, decide_eq_true_eq] at h
  exact if_pos h

/-- R99: decimal digits are read as the number the library reads from them. -/
theorem digitsValue_decimal {cs : List Char} (h : ∀ c ∈ cs, c.isDigit = true) (acc : Nat) :
    digitsValue 10 decimalDigit cs acc = some (Nat.ofDigitChars 10 cs acc) := by
  induction cs generalizing acc with
  | nil => rfl
  | cons c cs ih =>
    obtain ⟨hc, hcs⟩ := List.forall_mem_cons.mp h
    rw [digitsValue, decimalDigit_of_isDigit hc, Nat.ofDigitChars_cons, Nat.mul_comm 10]
    exact ih hcs _

/-- R99: an operand of decimal digits is not taken for a hexadecimal one. -/
theorem numberOf_decimal {cs : List Char} (hne : cs ≠ []) (h : ∀ c ∈ cs, c.isDigit = true) :
    numberOf cs = some (Nat.ofDigitChars 10 cs 0) := by
  have hx : 'x' ∉ cs := fun hmem => absurd (h _ hmem) (by decide)
  unfold numberOf
  split
  · exact absurd rfl hne
  · simp at hx
  · simp at hx
  · exact digitsValue_decimal h 0

theorem isDigit_toDigits (n : Nat) : ∀ c ∈ Nat.toDigits 10 n, c.isDigit = true :=
  fun _ hc => Nat.isDigit_of_mem_toDigits (by decide) (by decide) hc

theorem numberOf_toDigits (n : Nat) : numberOf (Nat.toDigits 10 n) = some n := by
  rw [numberOf_decimal Nat.toDigits_ne_nil (isDigit_toDigits n), Nat.ofDigitChars_ten_toDigits]

/-- Log 25: characters that are no blanks make one word with the one being read. -/
theorem wordsOf_of_no_blank {cs cur : List Char} (h : ∀ c ∈ cs, c ≠ ' ' ∧ c ≠ '\t')
    (hne : cur ++ cs ≠ []) : wordsOf cs cur = [cur ++ cs] := by
  induction cs generalizing cur with
  | nil => simpa [wordsOf] using hne
  | cons c cs ih =>
    obtain ⟨⟨hspace, htab⟩, hcs⟩ := List.forall_mem_cons.mp h
    simp [wordsOf, hspace, htab, ih hcs]

theorem beforeComment_of_no_semicolon {line : List Char} (h : ';' ∉ line) : beforeComment line = line := by
  rw [beforeComment, List.takeWhile_eq_self_iff]
  intro c hc
  exact bne_iff_ne.mpr (ne_of_mem_of_not_mem hc h)

/-- R99: the operand of INIT is the one word after the space. -/
theorem assembleLine_init {operand : List Char} (hne : operand ≠ [])
    (h : ∀ c ∈ operand, c.isDigit = true) :
    assembleLine (['I', 'N', 'I', 'T', ' '] ++ operand) = initWith operand := by
  have hmem : ∀ {c : Char}, c.isDigit = false → c ∉ operand := fun hc hin => by simp [h _ hin] at hc
  have hcomment : ';' ∉ ['I', 'N', 'I', 'T', ' '] ++ operand := by simpa using hmem rfl
  have hword : wordsOf operand [] = [operand] :=
    wordsOf_of_no_blank
      (fun c hc => ⟨ne_of_mem_of_not_mem hc (hmem rfl), ne_of_mem_of_not_mem hc (hmem rfl)⟩) hne
  have hwords : wordsOf (['I', 'N', 'I', 'T', ' '] ++ operand) [] = [['I', 'N', 'I', 'T'], operand] := by
    simp [wordsOf, hword]
  rw [assembleLine, beforeComment_of_no_semicolon hcomment, hwords]
  exact if_pos rfl

/-- R99: a number below 256 in decimal is an operand of INIT. -/
theorem initWith_toDigits {rate : Nat} (h : rate < 256) :
    initWith (Nat.toDigits 10 rate) = .command (.init rate) := by
  simp [initWith, numberOf_toDigits, h]

/-- Settles O7: INIT with an operand for every operand, and the lines of one mnemonic evaluated. -/
theorem assemblerLinesGiveCommandWords : Obligations.AssemblerLinesGiveCommandWords := by
  unfold Obligations.AssemblerLinesGiveCommandWords
  refine ⟨by decide, fun rate h => ?_, by decide⟩
  rw [assembleLine_init Nat.toDigits_ne_nil (isDigit_toDigits rate), initWith_toDigits h]

end Sys2Proof.Machine
end

section
/-! PROOFS. The configuration word (30_encoding.md R92, R93) and the patterns of the source's literals (R96). -/

namespace Sys2Proof.Machine

/-- Settles O12: the mask is defined on the legal rates, and for each of the five the word is evaluated. -/
theorem sampleRateMaskAndConfigWord : Obligations.SampleRateMaskAndConfigWord := by
  unfold Obligations.SampleRateMaskAndConfigWord
  constructor
  · intro rate
    rw [← Option.ne_none_iff_exists', ne_eq, crmask_eq_none_iff, not_not]
  · intro rate m h
    unfold crmask at h
    split at h <;> cases h <;> decide

/-- Settles O42: each literal, as an integer number of units over a power of ten, rounded by evaluation. -/
theorem constantPatternsAreNearestToLiterals : Obligations.ConstantPatternsAreNearestToLiterals := by
  unfold Obligations.ConstantPatternsAreNearestToLiterals
  decide +kernel

end Sys2Proof.Machine
end

section
/-! PROOFS. INIT with a legal rate (40_config_power.md R111 to R114): the CONFIG write, the two identity reads, and
what a failure of each leaves. -/

namespace Sys2Proof.Machine

/-! ### The record of a command -/

/-- Each transaction uses up one answer. -/
@[simp] theorem answerAt_afterBus (ts : List Transfer) (v : Sensor) (s : State) (k : Nat) :
    answerAt (afterBus ts v s) k = answerAt s (ts.length + k) := by
  simp [answerAt, Nat.add_assoc]

/-- PSTATE is no part of what a transaction records. -/
theorem afterBus_setPState (ts : List Transfer) (v : Sensor) (p : PState) (s : State) :
    afterBus ts v (setPState p s) = setPState p (afterBus ts v s) := rfl

/-! ### The CONFIG write -/

/-- R93: the configuration word leaves the reset bit clear. -/
theorem rstBit_configWord {rate : Nat} {m : Word} (hm : crmask rate = some m) :
    rstBit (configWord m) = false := by
  unfold crmask at hm
  split at hm <;> cases hm <;> rfl

section
variable {rate : Nat} {m : Word} {s : State}

/-- R111: once the CONFIG write has succeeded, PSTATE is Active and the identity check follows. -/
theorem exec_init_write_ok {d : Word} (hm : crmask rate = some m) (h0 : answerAt s 0 = .ok d) :
    exec (.init rate) s =
      .next (checkIdentity (setPState .active
        (afterBus [writeTransfer (configWord m)] { s.sensor with config := configWord m } s))) := by
  have hsensor : s.sensor.write (configWord m) d = { s.sensor with config := configWord m } :=
    congrArg (fun c => { s.sensor with config := c }) (s.sensor.write_configWord hm d)
  rw [exec_init_legal hm, memWrite_ok h0, transact_eq_afterBus, hsensor]

/-- R114 (c): INIT whose CONFIG write fails. -/
theorem exec_init_write_fail {e : TransportErr} {left : Word} (hm : crmask rate = some m)
    (h0 : answerAt s 0 = .fail e left) :
    exec (.init rate) s =
      .next (raise (.transportError e)
        (afterBus [failedWrite (configWord m) e] (s.sensor.spoil left) s)) := by
  rw [exec_init_legal hm, memWrite_fail h0, transact_eq_afterBus]

end

/-! ### The identity check -/

/-- R24, R113, with the expected identifiers written out. -/
theorem resultOfBool_identityOk (manid devid : Word) :
    resultOfBool (identityOk manid devid) =
      if manid = 0x5449#16 ∧ devid = 0x0067#16 then 1#64 else 0#64 := by
  simp [resultOfBool, identityOk, Config.manidExpect, Config.devidExpect]

section
variable {s : State}

theorem checkIdentity_ok {d0 d1 : Word} (h0 : answerAt s 0 = .ok d0) (h1 : answerAt s 1 = .ok d1) :
    checkIdentity s =
      returnBool (identityOk s.sensor.manid s.sensor.devid)
        (afterBus [readTransfer .manid s.sensor.manid, readTransfer .devid s.sensor.devid] s.sensor s) := by
  rw [checkIdentity, memRead_ok h0, memRead_ok ((answerAt_transact _ _ _ _ _).trans h1)]
  simp only [transact_eq_afterBus, afterBus_afterBus]
  rfl

/-- R114 (d): the read of MANID fails. -/
theorem checkIdentity_manid_fail {e : TransportErr} {left : Word} (h0 : answerAt s 0 = .fail e left) :
    checkIdentity s = raise (.transportError e) (afterBus [failedRead .manid e] s.sensor s) := by
  rw [checkIdentity, memRead_fail h0, transact_eq_afterBus]

/-- R114 (d): the read of DEVID fails. -/
theorem checkIdentity_devid_fail {d0 : Word} {e : TransportErr} {left : Word} (h0 : answerAt s 0 = .ok d0)
    (h1 : answerAt s 1 = .fail e left) :
    checkIdentity s =
      raise (.transportError e)
        (afterBus [readTransfer .manid s.sensor.manid, failedRead .devid e] s.sensor s) := by
  rw [checkIdentity, memRead_ok h0, memRead_fail ((answerAt_transact _ _ _ _ _).trans h1)]
  simp only [transact_eq_afterBus, afterBus_afterBus]
  rfl

end

/-! ### The statements -/

/-- Settles O13: the CONFIG write and then the identity check, each given whole. -/
theorem initConfiguresAndChecksIdentity : Obligations.InitConfiguresAndChecksIdentity := by
  unfold Obligations.InitConfiguresAndChecksIdentity
  intro s rate m d0 d1 d2 hm h0 h1 h2
  rw [exec_init_write_ok hm h0, checkIdentity_ok (by simpa using h1) (by simpa using h2),
    afterBus_setPState, afterBus_afterBus, ← resultOfBool_identityOk]
  rfl

/-- Settles O15, one transaction after the other. -/
theorem initFailsAtEachTransaction : Obligations.InitFailsAtEachTransaction := by
  unfold Obligations.InitFailsAtEachTransaction
  intro s rate m e hm
  refine ⟨fun left h0 => ?_, fun d0 left h0 h1 => ?_, fun d0 d1 left h0 h1 h2 => ?_⟩
  · rw [exec_init_write_fail hm h0]
    rfl
  · rw [exec_init_write_ok hm h0, checkIdentity_manid_fail (by simpa using h1), afterBus_setPState,
      afterBus_afterBus]
    rfl
  · rw [exec_init_write_ok hm h0, checkIdentity_devid_fail (by simpa using h1) (by simpa using h2),
      afterBus_setPState, afterBus_afterBus]
    rfl

end Sys2Proof.Machine
end

section
/-! PROOFS. SLEEP and WAKE (40_config_power.md R115 to R122): the word they write back, the state they leave, and
what they write with the reset bit set. -/

namespace Sys2Proof.Machine

/-! ### The fields of CONFIG under the two edits -/

/-- R61, R87: the sensor draws the reset bit. -/
@[simp] theorem rstBit_mergeConfig (c draw : Word) : rstBit (mergeConfig c draw) = rstBit draw := by
  simp [rstBit, mergeConfig, configKept]

/-- R115: SLEEP writes the reset bit back as read. -/
@[simp] theorem rstBit_clearMode (c : Word) : rstBit (clearMode c) = rstBit c := by
  simp [rstBit, clearMode, modeMask]

/-- R118: WAKE writes the reset bit back as read. -/
@[simp] theorem rstBit_setMode (c : Word) : rstBit (setMode c) = rstBit c := by
  simp [rstBit, setMode, modeMask]

/-- R61, R89, R90: the sensor keeps the sample rate and data-ready-enable, bits 11:8. -/
@[simp] theorem extractLsb'_rate_mergeConfig (c draw : Word) :
    (mergeConfig c draw).extractLsb' 8 4 = c.extractLsb' 8 4 := by
  rw [mergeConfig, BitVec.extractLsb'_or, BitVec.extractLsb'_and, BitVec.extractLsb'_and]
  exact (congrArg₂ (· ||| ·) BitVec.and_allOnes BitVec.and_zero).trans BitVec.or_zero

/-- R115: SLEEP keeps bits 11:8. -/
@[simp] theorem extractLsb'_rate_clearMode (c : Word) :
    (clearMode c).extractLsb' 8 4 = c.extractLsb' 8 4 := by
  rw [clearMode, BitVec.extractLsb'_and]
  exact BitVec.and_allOnes

/-- R118: WAKE keeps bits 11:8. -/
@[simp] theorem extractLsb'_rate_setMode (c : Word) :
    (setMode c).extractLsb' 8 4 = c.extractLsb' 8 4 := by
  rw [setMode, BitVec.extractLsb'_or]
  exact BitVec.or_zero

/-- R121: SLEEP writes back every bit outside the mode field as read. -/
theorem clearMode_and_not_modeMask (c : Word) : clearMode c &&& ~~~modeMask = c &&& ~~~modeMask := by
  rw [clearMode, BitVec.and_assoc, BitVec.and_self]

/-- R121: WAKE writes back every bit outside the mode field as read. -/
theorem setMode_and_not_modeMask (c : Word) : setMode c &&& ~~~modeMask = c &&& ~~~modeMask := by
  ext i hi
  simp only [setMode, BitVec.getElem_and, BitVec.getElem_or, BitVec.getElem_not]
  cases modeMask[i] <;> simp

/-! ### The state they leave -/

section
variable {edit : Word → Word} {p : PState} {s : State}

/-- SLEEP and WAKE with both transactions succeeding: CONFIG holds the word written, or any value where the
word read shows the reset bit (log 8). -/
theorem rewriteMode_ok_config (hrst : ∀ c, rstBit (edit c) = rstBit c) {d0 d1 c : Word}
    (hc : c = mergeConfig s.sensor.config d0) (h0 : answerAt s 0 = .ok d0) (h1 : answerAt s 1 = .ok d1) :
    rewriteMode edit p s =
      { afterBus [readTransfer .config c, writeTransfer (edit c)]
          { s.sensor with config := if rstBit c then d1 else edit c } s with
        pstate := p, status := .ok, rkind := .none, result := none, errinfo := none } := by
  rw [rewriteMode_ok hc h0 h1, ← hrst c]
  rfl

/-- R116 (f), R119 (e): the read fails. -/
theorem rewriteMode_read_fail {e : TransportErr} {left : Word} (h0 : answerAt s 0 = .fail e left) :
    rewriteMode edit p s = raise (.transportError e) (afterBus [failedRead .config e] s.sensor s) := by
  rw [rewriteMode, memRead_fail h0, transact_eq_afterBus]

/-- R116 (f), R119 (e): the write fails. -/
theorem rewriteMode_write_fail {d0 : Word} {e : TransportErr} {left : Word} (h0 : answerAt s 0 = .ok d0)
    (h1 : answerAt s 1 = .fail e left) :
    rewriteMode edit p s =
      raise (.transportError e)
        (afterBus
          [readTransfer .config (mergeConfig s.sensor.config d0),
            failedWrite (edit (mergeConfig s.sensor.config d0)) e]
          (s.sensor.spoil left) s) := by
  rw [rewriteMode, memRead_ok h0, memWrite_fail ((answerAt_transact _ _ _ _ _).trans h1)]
  simp only [transact_eq_afterBus, afterBus_afterBus]
  rfl

end

/-- Settles O16: SLEEP is `rewriteMode` with the mode field cleared. -/
theorem sleepClearsModeField : Obligations.SleepClearsModeField :=
  fun s _ _ _ hc h0 h1 => (exec_sleep s).trans (congrArg _ (rewriteMode_ok_config rstBit_clearMode hc h0 h1))

/-- Settles O17: WAKE is `rewriteMode` with the mode field set. -/
theorem wakeSetsModeField : Obligations.WakeSetsModeField :=
  fun s _ _ _ hc h0 h1 => (exec_wake s).trans (congrArg _ (rewriteMode_ok_config rstBit_setMode hc h0 h1))

/-- Settles O18: both commands are `rewriteMode`, whose two failures do not depend on the edit. -/
theorem sleepAndWakeFailures : Obligations.SleepAndWakeFailures := by
  unfold Obligations.SleepAndWakeFailures
  intro i edit hi s e
  obtain ⟨p, hexec⟩ : ∃ p, exec i s = .next (rewriteMode edit p s) := by
    obtain ⟨rfl, rfl⟩ | ⟨rfl, rfl⟩ := hi
    · exact ⟨_, exec_sleep s⟩
    · exact ⟨_, exec_wake s⟩
  refine ⟨fun left h0 => ?_, fun d0 left h0 h1 => ?_⟩
  · rw [hexec, rewriteMode_read_fail h0]
    rfl
  · rw [hexec, rewriteMode_write_fail h0 h1]
    rfl

/-! ### SLEEP and then WAKE -/

/-- SLEEP and WAKE that succeed, with the reset bit read clear: CONFIG holds the word written, PSTATE is the
command's, and two answers are used up. -/
theorem rewriteMode_rst_clear {edit : Word → Word} (hrst : ∀ c, rstBit (edit c) = rstBit c) (p : PState)
    {s : State} {d0 d1 : Word} (hd : rstBit d0 = false) (h0 : answerAt s 0 = .ok d0)
    (h1 : answerAt s 1 = .ok d1) :
    (rewriteMode edit p s).sensor.config = edit (mergeConfig s.sensor.config d0) ∧
      (rewriteMode edit p s).pstate = p ∧
      ∀ k, answerAt (rewriteMode edit p s) k = answerAt s (2 + k) := by
  rw [rewriteMode_ok_config hrst rfl h0 h1]
  exact ⟨by simp [hd], rfl, answerAt_afterBus [_, _] s.sensor s⟩

/-- Settles O21: CONFIG ends as the word WAKE writes, and the edits and the draws leave bits 11:8 alone. -/
theorem sleepThenWakeKeepsRateAndEnable : Obligations.SleepThenWakeKeepsRateAndEnable := by
  unfold Obligations.SleepThenWakeKeepsRateAndEnable
  intro s t u d0 d1 d2 d3 h0 h1 h2 h3 hd0 hd2 hsleep hwake
  obtain rfl := Host.Outcome.next.inj ((exec_sleep s).symm.trans hsleep)
  obtain rfl := Host.Outcome.next.inj ((exec_wake _).symm.trans hwake)
  obtain ⟨hsconfig, -, hanswers⟩ := rewriteMode_rst_clear rstBit_clearMode .sleeping hd0 h0 h1
  obtain ⟨hwconfig, hpstate, -⟩ := rewriteMode_rst_clear rstBit_setMode .active hd2
    ((hanswers 0).trans h2) ((hanswers 1).trans h3)
  refine ⟨by simp [hwconfig], by simp [hwconfig, hsconfig], hpstate, fun hmode => ?_⟩
  rw [hwconfig, modField_setMode, hmode]

/-! ### What a command writes -/

/-- R72: a record that follows a row makes the row's accesses only. -/
theorem access_mem_of_followsTable {row : List Access} {ts : List Transfer}
    (h : followsTable row ts = true) {x : Transfer} (hx : x ∈ ts) : ∃ a ∈ row, x.req.access = some a := by
  induction row, ts using followsTable.induct with
  | case1 row => cases hx
  | case2 y ys => cases h
  | case3 a row y ys ih =>
    simp only [followsTable, Bool.and_eq_true, beq_iff_eq] at h
    obtain ⟨hy, hrest⟩ := h
    obtain rfl | hx := List.mem_cons.1 hx
    · exact ⟨a, List.mem_cons_self, hy⟩
    · split at hrest
      · obtain ⟨b, hb, hxb⟩ := ih hrest hx
        exact ⟨b, List.mem_cons_of_mem _ hb, hxb⟩
      · rw [List.isEmpty_iff.1 hrest] at hx
        cases hx

/-- R72: a record that follows a row of reads holds no write. -/
theorem not_write_of_followsTable {row : List Access} (hrow : ∀ r, Access.w r ∉ row) {ts : List Transfer}
    (h : followsTable row ts = true) (a : Addr) (f g : Byte) (res : Response) :
    { req := .write a f g, res := res } ∉ ts := by
  intro hmem
  obtain ⟨b, hb, haccess⟩ := access_mem_of_followsTable h hmem
  obtain ⟨r, -, rfl⟩ := Option.map_eq_some_iff.1 haccess
  exact hrow r hb

/-- R53, R55: the bytes of a CONFIG write make the word. -/
theorem wordOfBytes_of_configWrite {a : Addr} {f g : Byte} {w : Word}
    (h : Request.write a f g = configWrite w) : wordOfBytes f g = w := by
  cases h
  exact wordOfBytes_bytes w

/-- R53, R87: the reset bit travels as bit 7 of the first byte. -/
theorem rstBit_wordOfBytes (f g : Byte) : rstBit (wordOfBytes f g) = f.getLsbD 7 :=
  BitVec.getLsbD_append

/-- What SLEEP and WAKE add to the record: the read alone, which did not succeed, or the read of a word and
the write of that word edited. -/
def AddsRewrite (edit : Word → Word) (s t : State) : Prop :=
  ∃ new, t.bus = s.bus ++ new ∧
    (followsTable [.r .config] new = true ∨
      ∃ c res, new = [readTransfer .config c, { req := configWrite (edit c), res := res }])

theorem rewriteMode_addsRewrite (edit : Word → Word) (p : PState) (s : State) :
    AddsRewrite edit s (rewriteMode edit p s) := by
  refine memRead_cases (AddsRewrite edit s) (fun draw _ => ?_) (fun _ _ _ => ⟨_, rfl, .inl rfl⟩)
    (fun _ _ => ⟨_, rfl, .inl rfl⟩)
  exact memWrite_cases (AddsRewrite edit s) (fun _ _ => ⟨_, List.append_assoc .., .inr ⟨_, _, rfl⟩⟩)
    (fun _ _ _ => ⟨_, List.append_assoc .., .inr ⟨_, _, rfl⟩⟩)
    (fun _ _ => ⟨_, List.append_assoc .., .inr ⟨_, _, rfl⟩⟩)

/-- R115, R118: the word SLEEP and WAKE ask to write is the word they have read, edited. -/
theorem rewriteMode_write {edit : Word → Word} {p : PState} {s : State} {new : List Transfer} {a : Addr}
    {f g : Byte} {res : Response} (hbus : (rewriteMode edit p s).bus = s.bus ++ new)
    (hmem : { req := .write a f g, res := res } ∈ new) :
    ∃ c, wordOfBytes f g = edit c ∧ readTransfer .config c ∈ new ∧
      ∀ f' g', { req := .read 0x02#8, res := .data f' g' } ∈ new → wordOfBytes f' g' = c := by
  obtain ⟨ts, hts, hrecord⟩ := rewriteMode_addsRewrite edit p s
  obtain rfl := List.append_cancel_left (hts.symm.trans hbus)
  obtain hrow | ⟨c, res', rfl⟩ := hrecord
  · exact absurd hmem (not_write_of_followsTable (by simp) hrow a f g res)
  · refine ⟨c, ?_, List.mem_cons_self, fun f' g' hread => ?_⟩
    · obtain ⟨hreq, -⟩ : Request.write a f g = configWrite (edit c) ∧ res = res' := by
        simpa [readTransfer] using hmem
      exact wordOfBytes_of_configWrite hreq
    · obtain ⟨rfl, rfl⟩ : f' = firstByte c ∧ g' = secondByte c := by
        simpa [readTransfer, configWrite, Reg.addr] using hread
      exact wordOfBytes_bytes c

/-- What INIT with a legal rate adds to the record: the CONFIG write, and then reads only. -/
def AddsConfigWrite (m : Word) (s t : State) : Prop :=
  ∃ res reads, t.bus = s.bus ++ { req := configWrite (configWord m), res := res } :: reads ∧
    followsTable [.r .manid, .r .devid] reads = true

theorem exec_init_addsConfigWrite {rate : Nat} {m : Word} (hm : crmask rate = some m) {s t : State}
    (h : exec (.init rate) s = .next t) : AddsConfigWrite m s t := by
  obtain rfl := Host.Outcome.next.inj ((exec_init_legal hm s).symm.trans h)
  refine memWrite_cases (AddsConfigWrite m s) (fun _ _ => ?_) (fun _ _ _ => ⟨_, [], rfl, rfl⟩)
    (fun _ _ => ⟨_, [], rfl, rfl⟩)
  obtain ⟨reads, hbus, hrow, -⟩ := (checkIdentity_followsRow _).of_setPState
  exact ⟨_, reads, hbus.trans (List.append_assoc ..), hrow⟩

/-- R111: the word INIT asks to write is the configuration word of a legal rate. -/
theorem exec_init_write {rate : Nat} {s t : State} (h : exec (.init rate) s = .next t) {new : List Transfer}
    (hbus : t.bus = s.bus ++ new) {a : Addr} {f g : Byte} {res : Response}
    (hmem : { req := .write a f g, res := res } ∈ new) :
    ∃ m, crmask rate = some m ∧ wordOfBytes f g = configWord m := by
  cases hm : crmask rate with
  | none =>
    obtain rfl := Host.Outcome.next.inj ((exec_init_illegal hm s).symm.trans h)
    obtain rfl : new = [] := by simpa using hbus
    cases hmem
  | some m =>
    obtain ⟨res', reads, hadds, hrow⟩ := exec_init_addsConfigWrite hm h
    obtain rfl := List.append_cancel_left (hadds.symm.trans hbus)
    obtain hwrite | hread := List.mem_cons.1 hmem
    · exact ⟨m, rfl, wordOfBytes_of_configWrite (congrArg Transfer.req hwrite)⟩
    · exact absurd hread (not_write_of_followsTable (by simp) hrow a f g res)

/-- R72: a command whose row has no write asks for none. -/
theorem exec_not_write {i : Instr} (hrow : ∀ r, Access.w r ∉ transactionsOf i) {s t : State}
    (h : exec i s = .next t) {new : List Transfer} (hbus : t.bus = s.bus ++ new) (a : Addr) (f g : Byte)
    (res : Response) : { req := .write a f g, res := res } ∉ new := by
  obtain ⟨ts, hts, hfollows, -⟩ := exec_followsRow h
  obtain rfl := List.append_cancel_left (hts.symm.trans hbus)
  exact not_write_of_followsTable hrow hfollows a f g res

/-- R122: SLEEP and WAKE write the reset bit set only where they have read it set. -/
theorem rewriteMode_rst_set {edit : Word → Word} (hrst : ∀ c, rstBit (edit c) = rstBit c) {p : PState}
    {s : State} {new : List Transfer} {a : Addr} {f g : Byte} {res : Response}
    (hbus : (rewriteMode edit p s).bus = s.bus ++ new)
    (hmem : { req := .write a f g, res := res } ∈ new) (hf : f.getLsbD 7 = true) :
    ∃ f' g', { req := .read 0x02#8, res := .data f' g' } ∈ new ∧ f'.getLsbD 7 = true := by
  obtain ⟨c, hword, hread, -⟩ := rewriteMode_write hbus hmem
  refine ⟨firstByte c, secondByte c, hread, ?_⟩
  rw [← rstBit_wordOfBytes _ (secondByte c), wordOfBytes_bytes, ← hrst c, ← hword, rstBit_wordOfBytes, hf]

/-- Settles O22: SLEEP and WAKE by the word they write; R122 because the word INIT writes has the reset bit
clear and the read commands write nothing. -/
theorem writeBackEchoesOtherFields : Obligations.WriteBackEchoesOtherFields := by
  unfold Obligations.WriteBackEchoesOtherFields
  constructor
  · rintro i s t new f' g' f g res (rfl | rfl) h hbus hread hwrite
    · obtain rfl := Host.Outcome.next.inj ((exec_sleep s).symm.trans h)
      obtain ⟨c, hword, -, hc⟩ := rewriteMode_write hbus hwrite
      rw [hword, hc f' g' hread]
      exact ⟨clearMode_and_not_modeMask c, modField_clearMode c⟩
    · obtain rfl := Host.Outcome.next.inj ((exec_wake s).symm.trans h)
      obtain ⟨c, hword, -, hc⟩ := rewriteMode_write hbus hwrite
      rw [hword, hc f' g' hread]
      exact ⟨setMode_and_not_modeMask c, modField_setMode c⟩
  · intro i s t new a f g res h hbus hwrite hf
    cases i with
    | init rate =>
      obtain ⟨m, hm, hword⟩ := exec_init_write h hbus hwrite
      have hclear : f.getLsbD 7 = false := by rw [← rstBit_wordOfBytes f g, hword, rstBit_configWord hm]
      rw [hclear] at hf
      cases hf
    | sleep =>
      obtain rfl := Host.Outcome.next.inj ((exec_sleep s).symm.trans h)
      exact rewriteMode_rst_set rstBit_clearMode hbus hwrite hf
    | wake =>
      obtain rfl := Host.Outcome.next.inj ((exec_wake s).symm.trans h)
      exact rewriteMode_rst_set rstBit_setMode hbus hwrite hf
    | rdvobj | rdtamb | rddiec | rdobjc =>
      exact absurd hwrite (exec_not_write (by simp [transactionsOf]) h hbus a f g res)

end Sys2Proof.Machine
end

section
/-! PROOFS. The shift law (41_raw_access.md R134) and the raw register access commands RDVOBJ and RDTAMB (R130 to
R133). -/

namespace Sys2Proof.Machine

/-! ### The arithmetic shift by two -/

/-- R134: bits 13:0 of the shift are bits 15:2 of the word, and its upper two bits are copies of bit 15. -/
theorem asr2_eq_append (w : Word) :
    asr2 w = w.extractLsb' 15 1 ++ w.extractLsb' 15 1 ++ w.extractLsb' 2 14 := by
  apply BitVec.eq_of_getLsbD_eq
  intro i hi
  rw [asr2, BitVec.getLsbD_sshiftRight, BitVec.getLsbD_append, BitVec.getLsbD_append]
  obtain hlow | rfl | rfl : i < 14 ∨ i = 14 ∨ i = 15 := by omega
  · simp [hlow, hi, show 2 + i < 16 by omega]
  · simp [BitVec.msb_eq_getLsbD_last]
  · simp [BitVec.msb_eq_getLsbD_last]

/-- R134: as an integer the shift is the floor of the quarter, for negative words too. -/
theorem s16_asr2 (w : Word) : s16 (asr2 w) = Int.fdiv (s16 w) 4 := by
  rw [s16, asr2, BitVec.toInt_sshiftRight, Int.shiftRight_eq_div_pow,
    Int.fdiv_eq_ediv_of_nonneg _ (by decide)]
  rfl

/-- R134: the shift drops bits 1:0, for it takes the mask `0xFFFC` to all ones. -/
theorem asr2_and_mask (w : Word) : asr2 (w &&& 0xFFFC#16) = asr2 w :=
  (BitVec.sshiftRight_and_distrib w _ 2).trans BitVec.and_allOnes

/-- Settles O25: the three laws for every word, and the nine rows of the table evaluated. -/
theorem arithmeticShiftLaw : Obligations.ArithmeticShiftLaw := by
  unfold Obligations.ArithmeticShiftLaw
  exact ⟨fun w => ⟨asr2_eq_append w, s16_asr2 w, (asr2_and_mask w).symm⟩, by decide⟩

/-! ### One read and its record -/

section
variable {r : Reg} {s : State} {next : Word → State → State}

/-- R54, R65: after a read that succeeds the command goes on with the word, and the record holds the read. -/
theorem memRead_ok_afterBus {draw : Word} (h : answerAt s 0 = .ok draw) :
    memRead r s next =
      next ((s.sensor.move r draw).get r)
        (afterBus [readTransfer r ((s.sensor.move r draw).get r)] (s.sensor.move r draw) s) := by
  rw [memRead_ok h, transact_eq_afterBus]

/-- R65, R172: a read that fails raises TransportError, and the record holds the failed read. -/
theorem memRead_fail_afterBus {e : TransportErr} {left : Word} (h : answerAt s 0 = .fail e left) :
    memRead r s next = raise (.transportError e) (afterBus [failedRead r e] s.sensor s) := by
  rw [memRead_fail h, transact_eq_afterBus]

end

/-! ### RDVOBJ and RDTAMB -/

/-- R131. -/
theorem exec_rdvobj (s : State) : exec .rdvobj s = .next (memRead .vobj s returnInt16) := rfl

/-- R133. -/
theorem exec_rdtamb (s : State) :
    exec .rdtamb s = .next (memRead .tamb s fun w => returnInt16 (asr2 w)) := rfl

/-- Settles O23: the command is one read of VOBJ, whose two outcomes give the state whole. -/
theorem rdvobjReturnsSignedVoltage : Obligations.RdvobjReturnsSignedVoltage := by
  unfold Obligations.RdvobjReturnsSignedVoltage
  refine ⟨decode_eq_ok_iff.mpr ⟨rfl, rfl⟩, fun s => ⟨fun w hok => ?_, fun e left hfail => ?_⟩⟩
  · rw [exec_rdvobj, memRead_ok_afterBus hok]
    rfl
  · rw [exec_rdvobj, memRead_fail_afterBus hfail]
    rfl

/-- Settles O24: the command is one read of TAMB and returns the shifted word. -/
theorem rdtambReturnsShiftedDieCount : Obligations.RdtambReturnsShiftedDieCount := by
  unfold Obligations.RdtambReturnsShiftedDieCount
  refine ⟨decode_eq_ok_iff.mpr ⟨rfl, rfl⟩, fun s => ⟨fun w hok => ?_, fun e left hfail => ?_⟩⟩
  · rw [exec_rdtamb, memRead_ok_afterBus hok]
    rfl
  · rw [exec_rdtamb, memRead_fail_afterBus hfail]
    rfl

end Sys2Proof.Machine
end

section
/-! PROOFS. Rounding to nearest, ties to even, and overflow (42_conversion.md R141, R142). -/

namespace Sys2Proof.Machine.Binary64

/-! ### The nearest integer -/

/-- R141: the nearest integer lies at most half a unit away, and at exactly half a unit only when it is even. -/
theorem nearestEven_spec (num : Nat) {den : Nat} (hden : 0 < den) :
    2 * (nearestEven num den * den) ≤ 2 * num + den ∧ 2 * num ≤ 2 * (nearestEven num den * den) + den ∧
      (nearestEven num den % 2 = 1 →
        2 * (nearestEven num den * den) < 2 * num + den ∧
          2 * num < 2 * (nearestEven num den * den) + den) := by
  have hnum : num / den * den + num % den = num := Nat.div_add_mod' num den
  have hrem := Nat.mod_lt num hden
  simp only [nearestEven]
  split_ifs <;> simp only [Nat.succ_mul] <;> omega

/-- R141: no multiple of `den` lies nearer to `num`, and of two equally near the even one is taken. -/
theorem nearestEven_nearest (num m : Nat) {den : Nat} (hden : 0 < den) :
    ((nearestEven num den * den : Int) - num).natAbs ≤ ((m * den : Int) - num).natAbs ∧
      (((nearestEven num den * den : Int) - num).natAbs = ((m * den : Int) - num).natAbs →
        m ≠ nearestEven num den → nearestEven num den % 2 = 0) := by
  obtain ⟨hlow, hhigh, hodd⟩ := nearestEven_spec num hden
  generalize nearestEven num den = n at *
  simp only [← Int.natCast_mul]
  rcases Nat.lt_trichotomy m n with hlt | rfl | hgt
  · have hstep : (m + 1) * den ≤ n * den := Nat.mul_le_mul_right _ hlt
    rw [Nat.succ_mul] at hstep
    omega
  · omega
  · have hstep : (n + 1) * den ≤ m * den := Nat.mul_le_mul_right _ hgt
    rw [Nat.succ_mul] at hstep
    omega

/-- R141: a number rounds below the even `m` exactly when it is below half a unit under it. -/
theorem nearestEven_lt_iff (num : Nat) {m den : Nat} (hm : m % 2 = 0) (hden : 0 < den) :
    nearestEven num den < m ↔ 2 * num + den < 2 * (m * den) := by
  obtain ⟨hlow, hhigh, hodd⟩ := nearestEven_spec num hden
  generalize nearestEven num den = n at *
  rcases Nat.lt_or_ge n m with hlt | hge
  · have hstep : (n + 1) * den ≤ m * den := Nat.mul_le_mul_right _ hlt
    rcases Nat.mod_two_eq_zero_or_one n with heven | hodd'
    · have hstep' : (n + 2) * den ≤ m * den := Nat.mul_le_mul_right _ (by omega)
      rw [Nat.add_mul] at hstep'
      omega
    · rw [Nat.succ_mul] at hstep
      have := (hodd hodd').2
      omega
  · have hstep : m * den ≤ n * den := Nat.mul_le_mul_right _ hge
    omega

/-! ### The values around a number -/

/-- A value is a multiple of the unit `2 ^ k`, or it lies below every number whose unit in the last place that
is. -/
theorem mag_multiple_or_lt (y : F64) (k : Nat) :
    (∃ m, mag y = m * 2 ^ k) ∨ (k ≠ 0 ∧ mag y < 2 ^ 52 * 2 ^ k) := by
  obtain ⟨e, n, hmag, hn, -⟩ := mag_significand y
  rcases Nat.le_total k e with hle | hle
  · exact .inl ⟨n * 2 ^ (e - k), by rw [hmag, Nat.mul_assoc, ← Nat.pow_add, Nat.sub_add_cancel hle]⟩
  · rcases Nat.eq_or_lt_of_le hle with rfl | hlt
    · exact .inl ⟨n, hmag⟩
    · refine .inr ⟨by omega, ?_⟩
      calc mag y = n * 2 ^ e := hmag
        _ < 2 ^ 53 * 2 ^ e := Nat.mul_lt_mul_of_pos_right hn (by positivity)
        _ = 2 ^ 52 * 2 ^ (e + 1) := by rw [Nat.pow_succ 2 e]; omega
        _ ≤ 2 ^ 52 * 2 ^ k := Nat.mul_le_mul_left _ (Nat.pow_le_pow_right (by decide) hlt)

/-- A finite rounding is a multiple of the unit in the last place; the last fraction bit is the parity of its
significand. -/
theorem mag_roundTo {neg : Bool} {num den : Nat} (h : isFinite (roundTo neg num den) = true) :
    let n := nearestEven num (den * 2 ^ ulpExp num den)
    mag (roundTo neg num den) = n * 2 ^ ulpExp num den ∧ frac (roundTo neg num den) % 2 = n % 2 := by
  obtain ⟨k, n, rfl, rfl, hlt, hle, hnorm, heq⟩ := roundTo_finite h
  refine ⟨by rw [heq, mag_pack neg hlt hle hnorm], ?_⟩
  rw [infBits_eq] at hlt
  rw [heq, frac_pack neg (by omega)]
  omega

/-- Where the unit in the last place is not the least one, the number has at least `2 ^ 52` units. -/
theorem significand_le {num den : Nat} (h : ulpExp num den ≠ 0) :
    2 ^ 52 * (den * 2 ^ ulpExp num den) ≤ num :=
  (Nat.mul_le_mul_right _ ((ulpExp_significand num den).2.resolve_left h)).trans (Nat.div_mul_le_self ..)

/-- Settles O33: a value of the same unit is a multiple of it, and any other lies below `2 ^ 52` units, which is a
multiple no farther from the number. -/
theorem roundingIsToNearestTiesToEven : Obligations.RoundingIsToNearestTiesToEven := by
  unfold Obligations.RoundingIsToNearestTiesToEven
  intro neg num den y hden hfin _
  obtain ⟨hmag, hfrac⟩ := mag_roundTo hfin
  have hunit : 0 < den * 2 ^ ulpExp num den := by positivity
  have hscale (m : Nat) : ((m * 2 ^ ulpExp num den : Nat) * den : Int) = m * (den * 2 ^ ulpExp num den : Nat) := by
    push_cast
    ring
  refine ⟨sign_roundTo neg num den, ?_⟩
  rw [hfrac, hmag, hscale]
  rcases mag_multiple_or_lt y (ulpExp num den) with ⟨m, hm⟩ | ⟨hk, hlt⟩
  · obtain ⟨hle, heven⟩ := nearestEven_nearest num m hunit
    rw [hm, hscale]
    exact ⟨hle, fun heq hne => heven heq fun h => hne (by rw [h])⟩
  · have hnear := (nearestEven_nearest num (2 ^ 52) hunit).1
    have hnum := significand_le hk
    have hy : mag y * den < 2 ^ 52 * (den * 2 ^ ulpExp num den) := by
      calc mag y * den < 2 ^ 52 * 2 ^ ulpExp num den * den := Nat.mul_lt_mul_of_pos_right hlt hden
        _ = _ := by ring
    generalize den * 2 ^ ulpExp num den = unit at *
    rw [← Int.natCast_mul] at *
    rw [← Int.natCast_mul] at *
    omega

/-! ### Overflow -/

/-- A rounding is finite exactly when its bits lie below those of the infinities. -/
theorem isFinite_roundTo_iff (neg : Bool) (num den : Nat) :
    isFinite (roundTo neg num den) = true ↔
      ulpExp num den * 2 ^ 52 + nearestEven num (den * 2 ^ ulpExp num den) < infBits := by
  simp only [roundTo]
  split_ifs with h
  · exact iff_of_false (by simp) (Nat.not_lt.2 h)
  · exact iff_of_true (isFinite_pack neg (Nat.lt_of_not_le h)) (Nat.lt_of_not_le h)

/-- A rounding that is not finite is the infinity of its sign. -/
theorem roundTo_eq_infinity {neg : Bool} {num den : Nat} (h : isFinite (roundTo neg num den) = false) :
    roundTo neg num den = infinity neg := by
  simp only [roundTo] at h ⊢
  split_ifs at h ⊢ with hbits
  · rfl
  · rw [isFinite_pack neg (Nat.lt_of_not_le hbits)] at h
    cases h

theorem overflowBound_mul (den : Nat) : overflowBound * den = (2 ^ 54 - 1) * (den * 2 ^ 2044) := by
  rw [overflowBound, Nat.mul_assoc, Nat.mul_comm den]

/-- R142: the overflow threshold, by the exponent of the unit in the last place: below 2045 every significand is
in range, above it none is, and at 2045 a significand that rounds up to `2 ^ 53` is not. -/
theorem isFinite_roundTo_iff_lt (neg : Bool) (num : Nat) {den : Nat} (hden : 0 < den) :
    isFinite (roundTo neg num den) = true ↔ num < overflowBound * den := by
  rw [isFinite_roundTo_iff, infBits_eq, overflowBound_mul]
  obtain ⟨hquot, hnorm⟩ := ulpExp_significand num den
  have hbounds := nearestEven_bounds num (den * 2 ^ ulpExp num den)
  have hunit : 0 < den * 2 ^ ulpExp num den := by positivity
  have hnum := (Nat.div_lt_iff_lt_mul hunit).1 hquot
  have hmono {e e' : Nat} (h : e ≤ e') : den * 2 ^ e ≤ den * 2 ^ e' :=
    Nat.mul_le_mul_left _ (Nat.pow_le_pow_right (by decide) h)
  have hsucc (e : Nat) : den * 2 ^ (e + 1) = 2 * (den * 2 ^ e) := by ring
  rcases Nat.lt_trichotomy (ulpExp num den) 2045 with hlt | heq | hgt
  · have hle := hmono (Nat.le_of_lt_succ hlt)
    generalize den * 2 ^ 2044 = top at *
    omega
  · rw [heq] at hunit ⊢
    have htop := hsucc 2044
    have hcarry := nearestEven_lt_iff num (m := 2 ^ 53) (by decide) hunit
    generalize den * 2 ^ 2044 = top at *
    omega
  · obtain ⟨e, he⟩ : ∃ e, ulpExp num den = e + 2 := ⟨ulpExp num den - 2, by omega⟩
    have hle := hmono (show 2044 ≤ e by omega)
    have hnum' := significand_le (show ulpExp num den ≠ 0 by omega)
    rw [he, hsucc (e + 1), hsucc e] at hnum'
    generalize den * 2 ^ 2044 = top at *
    omega

/-- Settles O34: the threshold, and what lies on the other side of it. -/
theorem roundingOverflowsToInfinity : Obligations.RoundingOverflowsToInfinity := by
  unfold Obligations.RoundingOverflowsToInfinity
  exact fun neg num _ hden => ⟨isFinite_roundTo_iff_lt neg num hden, roundTo_eq_infinity⟩

end Sys2Proof.Machine.Binary64
end

section
/-! PROOFS. The results that are exact: a number that is a finite value rounds to it (42_conversion.md R141), the
conversion of integers (R145) and the die temperature (R147). -/

namespace Sys2Proof.Machine.Binary64

/-! ### Sign and magnitude -/

/-- The number with the given sign and magnitude. -/
def signed (neg : Bool) (n : Nat) : Int := if neg then -n else n

theorem value_eq_signed (x : F64) : value x = signed (sign x) (mag x) := rfl

@[simp] theorem signed_false (n : Nat) : signed false n = n := rfl

@[simp] theorem signed_zero (neg : Bool) : signed neg 0 = 0 := by cases neg <;> rfl

@[simp] theorem neg_signed (neg : Bool) (n : Nat) : -signed neg n = signed (!neg) n := by
  cases neg <;> simp [signed]

@[simp] theorem abs_signed (neg : Bool) (n : Nat) : |signed neg n| = n := by cases neg <;> simp [signed]

theorem signed_mul (neg neg' : Bool) (m n : Nat) :
    signed neg m * signed neg' n = signed (neg != neg') (m * n) := by
  cases neg <;> cases neg' <;> simp [signed]

theorem signed_mul_natCast (neg : Bool) (m n : Nat) : signed neg (m * n) = signed neg m * n := by
  rw [← signed_false n, signed_mul, Bool.bne_false]

/-- An integer is its sign and its magnitude. -/
@[simp] theorem signed_natAbs (v : Int) : signed (decide (v < 0)) v.natAbs = v := by
  rcases lt_or_ge v 0 with hneg | hpos
  · simp [signed, hneg, abs_of_neg]
  · simp [signed, Int.not_lt.2 hpos, abs_of_nonneg hpos]

theorem value_eq_zero_of_isZero {x : F64} (h : isZero x = true) : value x = 0 := by
  rw [value_eq_signed, (mag_eq_zero_iff x).2 h, signed_zero]

/-! ### Numbers that are finite values -/

/-- A finite value lies below the overflow threshold. -/
theorem mag_lt_overflowBound {y : F64} (hy : isFinite y = true) : mag y < overflowBound := by
  have hfrac : frac y < 2 ^ 52 := (y.extractLsb' 0 52).isLt
  simp only [isFinite, decide_eq_true_eq] at hy
  have hmag : mag y ≤ (2 ^ 53 - 1) * 2 ^ (expo y - 1) := by
    unfold mag
    split
    · rw [‹expo y = 0›]
      omega
    · exact Nat.mul_le_mul_right _ (by omega)
  have hpow {e : Nat} (he : expo y - 1 ≤ e + 1) : 2 ^ (expo y - 1) ≤ 2 ^ e * 2 :=
    (Nat.pow_le_pow_right (by decide) he).trans_eq (Nat.pow_succ ..)
  have htop := hpow (show expo y - 1 ≤ 2044 + 1 by omega)
  have hpos : 0 < 2 ^ 2044 := by positivity
  unfold overflowBound
  generalize 2 ^ 2044 = top at *
  omega

/-- R97: a zero or subnormal value has no implicit bit. -/
theorem mag_lt_of_expo_eq_zero {x : F64} (h : expo x = 0) : mag x < 2 ^ 52 := by
  rw [mag, if_pos h]
  exact (x.extractLsb' 0 52).isLt

/-- R141: a number that is the magnitude of a finite value rounds to that magnitude. -/
theorem roundTo_exact (neg : Bool) {num den : Nat} {y : F64} (hden : 0 < den) (hy : isFinite y = true)
    (h : mag y * den = num) :
    isFinite (roundTo neg num den) = true ∧ mag (roundTo neg num den) = mag y := by
  have hfin : isFinite (roundTo neg num den) = true := by
    rw [isFinite_roundTo_iff_lt neg num hden, ← h]
    exact Nat.mul_lt_mul_of_pos_right (mag_lt_overflowBound hy) hden
  obtain ⟨-, hnear, -⟩ := roundingIsToNearestTiesToEven neg num den y hden hfin hy
  refine ⟨hfin, Nat.eq_of_mul_eq_mul_right hden ?_⟩
  rw [h]
  have hy0 : ((mag y * den : Int) - num).natAbs = 0 := by
    rw [← Int.natCast_mul, h]
    omega
  rw [← Int.natCast_mul] at *
  omega

/-- Every number of at most 53 bits times a power of two in range is the magnitude of a finite value. -/
theorem exists_mag_eq {n e : Nat} (hn : n < 2 ^ 53) (hlow : 52 ≤ e) (hhigh : e ≤ 2045) :
    ∃ y, isFinite y = true ∧ mag y = n * 2 ^ e := by
  rcases Nat.eq_zero_or_pos n with rfl | hpos
  · exact ⟨zero false, by decide, by simpa using (mag_eq_zero_iff _).2 (isZero_zero false)⟩
  · have hlog : n.log2 < 53 := (Nat.log2_lt hpos.ne').2 hn
    have hscale : n * 2 ^ (52 - n.log2) < 2 ^ 53 ∧ 2 ^ 52 ≤ n * 2 ^ (52 - n.log2) := by
      constructor
      · calc n * 2 ^ (52 - n.log2) < 2 ^ (n.log2 + 1) * 2 ^ (52 - n.log2) :=
              Nat.mul_lt_mul_of_pos_right Nat.lt_log2_self (by positivity)
          _ = 2 ^ 53 := by rw [← Nat.pow_add]; congr 1; omega
      · calc 2 ^ 52 = 2 ^ n.log2 * 2 ^ (52 - n.log2) := by rw [← Nat.pow_add]; congr 1; omega
          _ ≤ n * 2 ^ (52 - n.log2) := Nat.mul_le_mul_right _ (Nat.log2_self_le hpos.ne')
    have hbits : (e - (52 - n.log2)) * 2 ^ 52 + n * 2 ^ (52 - n.log2) < infBits := by
      rw [infBits_eq]
      omega
    refine ⟨pack false ((e - (52 - n.log2)) * 2 ^ 52 + n * 2 ^ (52 - n.log2)), isFinite_pack _ hbits, ?_⟩
    rw [mag_pack _ hbits hscale.1.le (.inr hscale.2), Nat.mul_assoc, ← Nat.pow_add]
    congr 2
    omega

/-! ### Integers -/

theorem intCast_one64 : (one64 : Int) = 2 ^ 1074 := by rw [one64, Nat.cast_pow, Nat.cast_ofNat]

/-- R145: the magnitude of an integer of at most 53 bits is kept, and its sign. -/
theorem i2f_exact {n : Int} (hn : n.natAbs < 2 ^ 53) :
    isFinite (i2f n) = true ∧ mag (i2f n) = n.natAbs * one64 ∧ sign (i2f n) = decide (n < 0) := by
  obtain ⟨y, hy, hmag⟩ := exists_mag_eq hn (show 52 ≤ 1074 by decide) (by decide)
  obtain ⟨hfin, hround⟩ := roundTo_exact (decide (n < 0)) Nat.one_pos hy rfl
  rw [Nat.mul_one, hmag] at hfin hround
  exact ⟨hfin, hround, sign_roundTo ..⟩

/-- A value is its sign and its magnitude. -/
theorem value_eq_of_mag {x : F64} {n : Int} {unit : Nat} (hmag : mag x = n.natAbs * unit)
    (hsign : sign x = decide (n < 0)) : value x = n * unit := by
  rw [value_eq_signed, hsign, hmag, signed_mul_natCast, signed_natAbs]

/-- A result with the sign of an integer that is zero only with it is not `-0`. -/
theorem ne_negZero {x : F64} {n : Int} (hmag : mag x = 0 → n = 0) (hsign : sign x = decide (n < 0)) :
    x ≠ 0x8000000000000000#64 := by
  rintro rfl
  rw [hmag rfl] at hsign
  cases hsign

/-- Settles O32: an integer of 16 bits times the unit `2 ^ 1074` is a finite value, so the rounding keeps it. -/
theorem integerToBinary64IsExact : Obligations.IntegerToBinary64IsExact := by
  unfold Obligations.IntegerToBinary64IsExact
  refine ⟨fun n hlow hhigh => ?_, by decide +kernel⟩
  obtain ⟨hfin, hmag, hsign⟩ := i2f_exact (n := n) (by omega)
  have hvalue := value_eq_of_mag hmag hsign
  rw [intCast_one64] at hvalue
  refine ⟨hfin, hvalue, ne_negZero (fun h0 => ?_) hsign⟩
  simpa [hmag, one64_pos.ne'] using h0

end Sys2Proof.Machine.Binary64
end

section
/-! PROOFS. RDDIEC and RDOBJC (42_conversion.md R146 to R148): the states they leave, and the die temperature,
which is exact (R147). -/

namespace Sys2Proof.Machine

open Binary64

/-! ### The commands -/

/-- R146. -/
theorem exec_rddiec (s : State) :
    exec .rddiec s =
      .next (memRead .tamb s fun w s0 =>
        returnF64 (dieTempC Config.constFile (Config.nanDraw s0.draws) (dieCount w)) s0) := rfl

/-- R148. -/
theorem exec_rdobjc (s : State) :
    exec .rdobjc s =
      .next (memRead .tamb s fun wt s0 =>
        memRead .vobj s0 fun wv s1 =>
        returnF64
          (objTempC Config.constFile Config.vobjScale Config.pow4 (Config.nanDraw s1.draws)
            (dieCount wt) (s16 wv)) s1) := rfl

/-- Settles O26: the command is one read of TAMB, whose two outcomes give the state whole. -/
theorem rddiecReturnsDieTemperature : Obligations.RddiecReturnsDieTemperature := by
  unfold Obligations.RddiecReturnsDieTemperature
  refine ⟨decode_eq_ok_iff.mpr ⟨rfl, rfl⟩, fun s => ⟨fun w hok => ?_, fun e left hfail => ?_⟩⟩
  · rw [exec_rddiec, memRead_ok_afterBus hok]
    rfl
  · rw [exec_rddiec, memRead_fail_afterBus hfail]
    rfl

/-- RDOBJC with both reads succeeding. -/
theorem exec_rdobjc_ok {s : State} {wt wv : Word} (h0 : answerAt s 0 = .ok wt) (h1 : answerAt s 1 = .ok wv) :
    exec .rdobjc s =
      .next (returnF64
        (objTempC Config.constFile Config.vobjScale Config.pow4 (Config.nanDraw (s.draws + 2))
          (dieCount wt) (s16 wv))
        (afterBus [readTransfer .tamb wt, readTransfer .vobj wv]
          { s.sensor with tamb := wt, vobj := wv } s)) := by
  rw [exec_rdobjc, memRead_ok_afterBus h0, memRead_ok_afterBus (by simpa using h1), afterBus_afterBus]
  rfl

/-- Settles O27: the two reads one after the other, and the formula's steps unfolded. -/
theorem rdobjcReturnsObjectTemperature : Obligations.RdobjcReturnsObjectTemperature := by
  unfold Obligations.RdobjcReturnsObjectTemperature
  refine ⟨decode_eq_ok_iff.mpr ⟨rfl, rfl⟩, fun s wt wv h0 h1 => ?_⟩
  rw [exec_rdobjc_ok h0 h1]
  rfl

/-! ### The die temperature -/

/-- R146: the die count has 14 bits. -/
theorem dieCount_bounds (w : Word) : -8192 ≤ dieCount w ∧ dieCount w ≤ 8191 := by
  have hlow : -2 ^ 15 ≤ s16 w := BitVec.le_toInt w
  have hhigh : s16 w < 2 ^ 15 := BitVec.toInt_lt
  rw [dieCount, s16_asr2, Int.fdiv_eq_ediv_of_nonneg _ (by decide)]
  omega

theorem isFinite_lsbT : isFinite Config.constFile.lsbT = true := by decide

theorem sign_lsbT : sign Config.constFile.lsbT = false := by decide

theorem mag_lsbT : mag Config.constFile.lsbT = 2 ^ 1069 := by decide +kernel

theorem le_mag_lsbT : 2 ^ 52 ≤ mag Config.constFile.lsbT := by decide +kernel

/-- R146: `k[LSB_T]` is 1/32. -/
theorem mag_lsbT_mul : mag Config.constFile.lsbT * 32 = one64 := by decide +kernel

/-- R147: the product with `k[LSB_T]` is a finite value, and so the rounding keeps it. -/
theorem dieTempC_exact (nan : Nat → BitVec 52) {m : Int} (hm : m.natAbs < 2 ^ 53) :
    isFinite (dieTempC Config.constFile nan m) = true ∧
      mag (dieTempC Config.constFile nan m) = m.natAbs * mag Config.constFile.lsbT ∧
      sign (dieTempC Config.constFile nan m) = decide (m < 0) := by
  obtain ⟨hfin, hmag, hsign⟩ := i2f_exact hm
  obtain ⟨y, hy, hymag⟩ := exists_mag_eq hm (show 52 ≤ 1069 by decide) (by decide)
  rw [← mag_lsbT] at hymag
  have hprod : mag y * one64 = mag (i2f m) * mag Config.constFile.lsbT := by
    rw [hymag, hmag, Nat.mul_right_comm]
  obtain ⟨hround, hroundmag⟩ := roundTo_exact (sign (i2f m)) one64_pos hy hprod
  rw [dieTempC, fmul_of_isFinite _ hfin isFinite_lsbT, sign_lsbT, Bool.bne_false]
  exact ⟨hround, hroundmag.trans hymag, by rw [sign_roundTo, hsign]⟩

/-- Settles O29: the die temperature is `m` units of `k[LSB_T]`, and `m` has 14 bits. -/
theorem dieTemperatureIsExact : Obligations.DieTemperatureIsExact := by
  unfold Obligations.DieTemperatureIsExact
  intro nan w
  obtain ⟨hlow, hhigh⟩ := dieCount_bounds w
  generalize dieCount w = m at *
  obtain ⟨hfin, hmag, hsign⟩ := dieTempC_exact nan (m := m) (by omega)
  have hvalue := value_eq_of_mag hmag hsign
  have hunit := le_mag_lsbT
  rw [← intCast_one64, ← mag_lsbT_mul]
  generalize dieTempC Config.constFile nan m = c at *
  generalize mag Config.constFile.lsbT = unit at *
  have hzero : mag c < 2 ^ 52 → m = 0 := by
    intro hc
    by_contra hne
    have := Nat.le_mul_of_pos_left unit (Int.natAbs_pos.2 hne)
    omega
  refine ⟨hfin, by rw [hvalue]; push_cast; ring, ne_negZero (fun h => hzero (by omega)) hsign, ?_, ?_, ?_⟩
  · intro hexpo
    obtain rfl := hzero (mag_lt_of_expo_eq_zero hexpo)
    rw [(isZero_iff c).1 ((mag_eq_zero_iff c).1 (by simpa using hmag)), hsign]
    rfl
  · rw [hvalue]
    push_cast
    nlinarith
  · rw [hvalue]
    push_cast
    nlinarith

end Sys2Proof.Machine
end

section
/-! PROOFS. The four operations on finite operands (42_conversion.md R141, R142): the exact result rounded once, and
overflow. -/

namespace Sys2Proof.Machine.Binary64

/-! ### Correct rounding with signs -/

/-- Each operation rounds an integer over an integer; only the quotient of the two counts. -/
theorem correctlyRounded_neg {r : F64} {num den : Int} :
    CorrectlyRounded r (-num) (-den) ↔ CorrectlyRounded r num den := by
  have hneg (x : F64) : |value x * -den - -num| = |value x * den - num| := by
    rw [← abs_neg]
    congr 1
    ring
  simp only [CorrectlyRounded, hneg]

/-- A value that is the exact result is the nearest to it, and the only one. -/
theorem correctlyRounded_of_exact {r : F64} {num den : Int} (hden : den ≠ 0) (h : value r * den = num) :
    CorrectlyRounded r num den := by
  intro y _
  subst h
  rw [sub_self, abs_zero]
  refine ⟨abs_nonneg _, fun heq hne => absurd ?_ hne⟩
  have hdiff := abs_eq_zero.1 heq.symm
  exact Int.eq_of_mul_eq_mul_right hden (by omega)

/-- From a value of its own sign a number is as far as their magnitudes are. -/
theorem abs_value_sub_of_sign_eq {x : F64} {neg : Bool} (h : sign x = neg) (n den : Nat) :
    |value x * den - signed neg n| = ((mag x * den : Int) - n).natAbs := by
  rw [value_eq_signed, h, Int.natCast_natAbs]
  cases neg
  · rfl
  · rw [signed, signed, if_pos rfl, if_pos rfl, ← abs_neg]
    congr 1
    ring

/-- From a value of the opposite sign a number is as far as their magnitudes together. -/
theorem abs_value_sub_of_sign_ne {x : F64} {neg : Bool} (h : sign x = !neg) (n den : Nat) :
    |value x * den - signed neg n| = (mag x * den + n : Nat) := by
  have hsum : value x * den - signed neg n = signed (!neg) (mag x * den + n) := by
    rw [value_eq_signed, h]
    cases neg <;> simp [signed, sub_eq_add_neg, add_comm]
  rw [hsum, abs_signed]

/-- Of the values with the sign of the exact result the nearest magnitude is the nearest value; one with the
opposite sign lies no nearer than zero. -/
theorem correctlyRounded_roundTo {neg : Bool} {n den : Nat} (hden : 0 < den)
    (h : isFinite (roundTo neg n den) = true) :
    CorrectlyRounded (roundTo neg n den) (signed neg n) den := by
  intro y hy
  have hsign := sign_roundTo neg n den
  have hr := abs_value_sub_of_sign_eq hsign n den
  rcases Bool.eq_or_eq_not (sign y) neg with hysign | hysign
  · obtain ⟨-, hnear, heven⟩ := roundingIsToNearestTiesToEven neg n den y hden h hy
    rw [hr, abs_value_sub_of_sign_eq hysign n den, Int.ofNat_le, Int.ofNat_inj]
    refine ⟨hnear, fun heq hne => heven heq fun hmag => hne ?_⟩
    rw [value_eq_signed, value_eq_signed, hysign, hsign, hmag]
  · obtain ⟨-, hnear, heven⟩ :=
      roundingIsToNearestTiesToEven neg n den (zero neg) hden h (by cases neg <;> decide)
    have hmag0 : mag (zero neg) = 0 := (mag_eq_zero_iff _).2 (isZero_zero neg)
    rw [hmag0, Int.natCast_zero, Int.zero_mul] at hnear heven
    rw [hr, abs_value_sub_of_sign_ne hysign n den, Int.ofNat_le, Int.ofNat_inj]
    refine ⟨by omega, fun heq hne => heven (by omega) fun hrmag => hne ?_⟩
    have hymag : mag y = 0 := (Nat.mul_eq_zero.1 (show mag y * den = 0 by omega)).resolve_right hden.ne'
    rw [value_eq_signed, value_eq_signed, hymag, ← hrmag]
    simp [signed]

/-- A common sign of numerator and denominator does not count. -/
theorem correctlyRounded_signed {r : F64} {neg neg' : Bool} {n den : Nat} :
    CorrectlyRounded r (signed neg n) (signed neg' den) ↔ CorrectlyRounded r (signed (neg != neg') n) den := by
  cases neg' with
  | false => rw [Bool.bne_false, signed_false]
  | true => rw [← correctlyRounded_neg, neg_signed, neg_signed, Bool.bne_true, Bool.not_true, signed_false]

/-! ### Sums and differences -/

theorem fsub_eq_fadd (d : BitVec 52) (a b : F64) : fsub d a b = fadd d a (negate b) := rfl

/-- The sum of finite operands is a zero, where the exact sum is zero, or the exact sum rounded. -/
theorem fadd_cases (d : BitVec 52) {a b : F64} (ha : isFinite a = true) (hb : isFinite b = true) :
    (value a + value b = 0 ∧ ∃ neg, fadd d a b = zero neg) ∨
      fadd d a b = roundTo (decide (value a + value b < 0)) (value a + value b).natAbs 1 := by
  rw [fadd_of_isFinite d ha hb]
  split_ifs with hzero hsum
  · obtain ⟨hza, hzb⟩ := Bool.and_eq_true_iff.1 hzero
    exact .inl ⟨by rw [value_eq_zero_of_isZero hza, value_eq_zero_of_isZero hzb, Int.add_zero], _, rfl⟩
  · exact .inl ⟨hsum, _, rfl⟩
  · exact .inr rfl

theorem correctlyRounded_fadd (d : BitVec 52) {a b : F64} (ha : isFinite a = true) (hb : isFinite b = true)
    (h : isFinite (fadd d a b) = true) : CorrectlyRounded (fadd d a b) (value a + value b) 1 := by
  obtain ⟨hsum, neg, hzero⟩ | hround := fadd_cases d ha hb
  · rw [hzero, hsum]
    exact correctlyRounded_of_exact one_ne_zero (by rw [value_eq_zero_of_isZero (isZero_zero neg), Int.zero_mul])
  · rw [hround] at h ⊢
    have hnear := correctlyRounded_roundTo Nat.one_pos h
    rwa [signed_natAbs] at hnear

/-! ### Products and quotients -/

theorem correctlyRounded_fmul (d : BitVec 52) {a b : F64} (ha : isFinite a = true) (hb : isFinite b = true)
    (h : isFinite (fmul d a b) = true) : CorrectlyRounded (fmul d a b) (value a * value b) one64 := by
  rw [fmul_of_isFinite d ha hb] at h ⊢
  rw [value_eq_signed, value_eq_signed, signed_mul]
  exact correctlyRounded_roundTo one64_pos h

theorem mag_pos {x : F64} (h : isZero x = false) : 0 < mag x := by
  rw [Nat.pos_iff_ne_zero, Ne, mag_eq_zero_iff, h]
  exact Bool.false_ne_true

/-- The divisor is brought to a positive one by changing both signs. -/
theorem correctlyRounded_fdiv (d : BitVec 52) {a b : F64} (ha : isFinite a = true) (hb : isFinite b = true)
    (hz : isZero b = false) (h : isFinite (fdiv d a b) = true) :
    CorrectlyRounded (fdiv d a b) (value a * one64) (value b) := by
  rw [fdiv_of_isFinite d ha hb hz] at h ⊢
  rw [value_eq_signed a, value_eq_signed b, ← signed_mul_natCast, correctlyRounded_signed]
  exact correctlyRounded_roundTo (mag_pos hz) h

/-- Settles O37: each operation rounds its exact result once; a difference is the sum with the opposite value. -/
theorem arithmeticIsCorrectlyRounded : Obligations.ArithmeticIsCorrectlyRounded := by
  unfold Obligations.ArithmeticIsCorrectlyRounded
  intro d a b ha hb
  refine ⟨correctlyRounded_fadd d ha hb, fun h => ?_, correctlyRounded_fmul d ha hb,
    correctlyRounded_fdiv d ha hb⟩
  rw [fsub_eq_fadd] at h ⊢
  simpa [sub_eq_add_neg] using correctlyRounded_fadd d ha (by simpa using hb) h

/-! ### Overflow -/

@[simp] theorem isFinite_zero (neg : Bool) : isFinite (zero neg) = true := by cases neg <;> rfl

theorem overflowBound_pos : 0 < overflowBound := by
  unfold overflowBound
  positivity

/-- R142: the sum of finite operands is finite exactly below the overflow threshold. -/
theorem isFinite_fadd_iff (d : BitVec 52) {a b : F64} (ha : isFinite a = true) (hb : isFinite b = true) :
    isFinite (fadd d a b) = true ↔ |value a + value b| < overflowBound := by
  obtain ⟨hsum, neg, hzero⟩ | hround := fadd_cases d ha hb
  · rw [hzero, hsum, abs_zero]
    exact iff_of_true (isFinite_zero neg) (Int.natCast_pos.2 overflowBound_pos)
  · rw [hround, isFinite_roundTo_iff_lt _ _ Nat.one_pos, Nat.mul_one, ← Int.natCast_natAbs, Int.ofNat_lt]

theorem fadd_eq_infinity (d : BitVec 52) {a b : F64} (ha : isFinite a = true) (hb : isFinite b = true)
    (h : isFinite (fadd d a b) = false) : fadd d a b = infinity (decide (value a + value b < 0)) := by
  obtain ⟨-, neg, hzero⟩ | hround := fadd_cases d ha hb
  · rw [hzero, isFinite_zero] at h
    cases h
  · rw [hround] at h ⊢
    exact roundTo_eq_infinity h

/-- Settles O38: each operation rounds once, and the rounding overflows at the threshold; a difference is the sum
with the opposite value. -/
theorem arithmeticOverflowsToInfinity : Obligations.ArithmeticOverflowsToInfinity := by
  unfold Obligations.ArithmeticOverflowsToInfinity
  intro d a b ha hb
  have hnb : isFinite (negate b) = true := by rwa [isFinite_negate]
  have hdiff : value a - value b = value a + value (negate b) := by rw [value_negate, sub_eq_add_neg]
  rw [hdiff, fsub_eq_fadd]
  refine ⟨isFinite_fadd_iff d ha hb, fadd_eq_infinity d ha hb, isFinite_fadd_iff d ha hnb,
    fadd_eq_infinity d ha hnb, ?_, ?_, fun hz => ⟨?_, ?_⟩⟩
  · rw [fmul_of_isFinite d ha hb, isFinite_roundTo_iff_lt _ _ one64_pos, abs_mul, abs_value, abs_value]
    exact_mod_cast Iff.rfl
  · rw [fmul_of_isFinite d ha hb]
    exact roundTo_eq_infinity
  · rw [fdiv_of_isFinite d ha hb hz, isFinite_roundTo_iff_lt _ _ (mag_pos hz), abs_mul, abs_value, abs_value,
      Nat.abs_cast]
    exact_mod_cast Iff.rfl
  · rw [fdiv_of_isFinite d ha hb hz]
    exact roundTo_eq_infinity

end Sys2Proof.Machine.Binary64
end

section
/-! PROOFS. The special values of the operations (42_conversion.md R142 to R144), and that sums and products are
commutative (R149 g). -/

namespace Sys2Proof.Machine.Binary64

/-! ### The classes of values -/

theorem isNaN_of_isInf {x : F64} (h : isInf x = true) : isNaN x = false := by
  rw [isInf_eq_infinity h, isNaN_infinity]

theorem isFinite_of_isZero {x : F64} (h : isZero x = true) : isFinite x = true := by
  rw [(isZero_iff x).1 h, isFinite_zero]

theorem isZero_of_isInf {x : F64} (h : isInf x = true) : isZero x = false := by
  rw [isInf_eq_infinity h]
  cases sign x <;> rfl

@[simp] theorem isNaN_negate (x : F64) : isNaN (negate x) = isNaN x := by simp [isNaN]

@[simp] theorem isInf_negate (x : F64) : isInf (negate x) = isInf x := by simp [isInf]

@[simp] theorem isZero_negate (x : F64) : isZero (negate x) = isZero x := by simp [isZero]

@[simp] theorem negate_infinity (neg : Bool) : negate (infinity neg) = infinity (!neg) := by
  cases neg <;> rfl

/-! ### NaN operands -/

theorem fadd_nan (d : BitVec 52) {a b : F64} (h : isNaN a = true ∨ isNaN b = true) :
    fadd d a b = quietNaN d := by
  rw [fadd, if_pos (by simpa using h)]

theorem fsub_nan (d : BitVec 52) {a b : F64} (h : isNaN a = true ∨ isNaN b = true) :
    fsub d a b = quietNaN d := fadd_nan d (by simpa using h)

theorem fmul_nan (d : BitVec 52) {a b : F64} (h : isNaN a = true ∨ isNaN b = true) :
    fmul d a b = quietNaN d := by
  rw [fmul, if_pos (by simpa using h)]

theorem fdiv_nan (d : BitVec 52) {a b : F64} (h : isNaN a = true ∨ isNaN b = true) :
    fdiv d a b = quietNaN d := by
  rw [fdiv, if_pos (by simpa using h)]

theorem fsqrt_nan (d : BitVec 52) {a : F64} (h : isNaN a = true) : fsqrt d a = quietNaN d := by
  rw [fsqrt, if_pos h]

/-! ### Infinite operands -/

/-- R142: like infinities are kept, unlike ones have no sum. -/
theorem fadd_infinity (d : BitVec 52) (neg neg' : Bool) :
    fadd d (infinity neg) (infinity neg') = if neg = neg' then infinity neg else quietNaN d := by
  cases neg <;> cases neg' <;> rfl

/-- R142: a finite operand does not change an infinite one. -/
theorem fadd_of_isInf_of_isFinite (d : BitVec 52) {a b : F64} (ha : isInf a = true) (hb : isFinite b = true) :
    fadd d a b = a ∧ fadd d b a = a := by
  simp [fadd, ha, isNaN_of_isInf ha, isNaN_of_isFinite hb]

/-- R142: an infinity times a zero is no number, times anything else an infinity. -/
theorem fmul_of_isInf (d : BitVec 52) {a b : F64} (ha : isInf a = true) (hb : isNaN b = false) :
    fmul d a b = if isZero b then quietNaN d else infinity (sign a != sign b) := by
  simp [fmul, ha, hb, isNaN_of_isInf ha, isZero_of_isInf ha]

/-! ### Commutativity -/

theorem isInf_or_isFinite {x : F64} (h : isNaN x = false) : isInf x = true ∨ isFinite x = true := by
  obtain ⟨hn, -, -⟩ | ⟨-, hi, -⟩ | ⟨-, -, hf⟩ := isNaN_or_isInf_or_isFinite x
  · rw [h] at hn
    cases hn
  · exact .inl hi
  · exact .inr hf

/-- R149 (g): by the classes of the operands; two infinities with a sum are the same one. -/
theorem fadd_comm (d : BitVec 52) (a b : F64) : fadd d a b = fadd d b a := by
  by_cases hnan : isNaN a = true ∨ isNaN b = true
  · rw [fadd_nan d hnan, fadd_nan d hnan.symm]
  · obtain ⟨hna, hnb⟩ : isNaN a = false ∧ isNaN b = false := by simpa using hnan
    rcases isInf_or_isFinite hna with ha | ha <;> rcases isInf_or_isFinite hnb with hb | hb
    · rw [isInf_eq_infinity ha, isInf_eq_infinity hb, fadd_infinity, fadd_infinity]
      cases sign a <;> cases sign b <;> rfl
    · obtain ⟨hab, hba⟩ := fadd_of_isInf_of_isFinite d ha hb
      rw [hab, hba]
    · obtain ⟨hba, hab⟩ := fadd_of_isInf_of_isFinite d hb ha
      rw [hab, hba]
    · rw [fadd_of_isFinite d ha hb, fadd_of_isFinite d hb ha, Int.add_comm (value a),
        Bool.and_comm (isZero a), Bool.and_comm (sign a)]

/-- R149 (g): every test of `fmul` and the product itself are symmetric. -/
theorem fmul_comm (d : BitVec 52) (a b : F64) : fmul d a b = fmul d b a := by
  simp only [fmul, Bool.or_comm (isNaN a), Bool.or_comm (isInf a), Bool.and_comm (isInf a),
    Bool.and_comm (isZero a), Bool.or_comm (isZero b && isInf a), bne_comm (a := sign a), Nat.mul_comm (mag a)]

/-- Settles O36, one operation after the other. -/
theorem additionAndMultiplicationCommute : Obligations.AdditionAndMultiplicationCommute := by
  unfold Obligations.AdditionAndMultiplicationCommute
  exact fun d a b => ⟨fadd_comm d a b, fmul_comm d a b⟩

/-! ### The statements on special values -/

/-- R142: `x - x` is `+0`. -/
theorem fsub_self (d : BitVec 52) {a : F64} (ha : isFinite a = true) : fsub d a a = zero false := by
  rw [fsub_eq_fadd, fadd_of_isFinite d ha (by simpa using ha), value_negate, Int.add_right_neg,
    sign_negate, Bool.and_not_self, if_pos rfl, ite_self]

/-- Settles O39: each clause by the law of its operands' classes. -/
theorem addSubMulSpecialValues : Obligations.AddSubMulSpecialValues := by
  unfold Obligations.AddSubMulSpecialValues
  intro d a b
  refine ⟨fun h => ⟨fadd_nan d h, fsub_nan d h, fmul_nan d h⟩, fun neg => ?_, fun ha hb => ?_,
    fun ha hb => ?_, fun ha hnb hzb => ?_, fsub_self d, rfl, fun ha hb => ?_⟩
  · simp [fsub_eq_fadd, fadd_infinity]
  · rw [fmul_comm d b a, fmul_of_isInf d ha (isNaN_of_isFinite (isFinite_of_isZero hb)).1, if_pos hb]
    exact ⟨rfl, rfl⟩
  · obtain ⟨hab, hba⟩ := fadd_of_isInf_of_isFinite d ha hb
    have hsub := (fadd_of_isInf_of_isFinite d ha (show isFinite (negate b) = true by simpa using hb)).1
    have hsub' := (fadd_of_isInf_of_isFinite d (show isInf (negate a) = true by simpa using ha) hb).2
    exact ⟨hab, hsub, hba, hsub'⟩
  · rw [fmul_comm d b a, fmul_of_isInf d ha hnb, if_neg (by simp [hzb])]
    exact ⟨rfl, rfl⟩
  · rw [fmul_of_isFinite d ha hb]
    exact ⟨sign_roundTo .., isNaN_roundTo ..⟩

theorem fdiv_zero_zero (d : BitVec 52) {a b : F64} (ha : isZero a = true) (hb : isZero b = true) :
    fdiv d a b = quietNaN d := by
  simp [fdiv, ha, hb, isNaN_of_isFinite (isFinite_of_isZero ha), isNaN_of_isFinite (isFinite_of_isZero hb)]

theorem fdiv_of_isZero (d : BitVec 52) {a b : F64} (ha : isFinite a = true) (hza : isZero a = false)
    (hb : isZero b = true) : fdiv d a b = infinity (sign a != sign b) := by
  simp [fdiv, hza, hb, isNaN_of_isFinite ha, isNaN_of_isFinite (isFinite_of_isZero hb)]

/-- Settles O40: the tests of `fdiv`, decided by the classes of the operands. -/
theorem divisionSpecialValues : Obligations.DivisionSpecialValues := by
  unfold Obligations.DivisionSpecialValues
  refine fun d a b => ⟨fdiv_nan d, fdiv_zero_zero d, fun ha hb => ?_, fdiv_of_isZero d, fun ha hb => ?_⟩
  · simp [fdiv, ha, hb, isNaN_of_isInf ha, isNaN_of_isInf hb]
  · simp [fdiv, hb, isNaN_of_isFinite ha, isNaN_of_isInf hb, isZero_of_isInf hb]

/-- R144: a finite value below zero has no square root. -/
theorem fsqrt_of_value_neg (d : BitVec 52) {a : F64} (h : value a < 0) : fsqrt d a = quietNaN d := by
  have hzero : isZero a = false := Bool.eq_false_of_not_eq_true fun hz => by
    rw [value_eq_zero_of_isZero hz] at h
    omega
  have hsign : sign a = true := Bool.eq_true_of_not_eq_false fun hs => by
    rw [value_eq_signed, hs, signed_false] at h
    omega
  simp [fsqrt, hzero, hsign]

theorem isQuietNaN_quietNaN (d : BitVec 52) : isQuietNaN (quietNaN d) = true := by
  have := d.isLt
  rw [isQuietNaN, isNaN_quietNaN, Bool.true_and, BitVec.getLsbD, Nat.testBit_eq_decide_div_mod_eq,
    toNat_quietNaN, decide_eq_true_eq]
  omega

theorem fsqrt_infinity (d : BitVec 52) : fsqrt d (infinity false) = infinity false := rfl

/-- Settles O41: the tests of `fsqrt`, and bit 51 of the NaN of a draw. -/
theorem squareRootSpecialValues : Obligations.SquareRootSpecialValues := by
  unfold Obligations.SquareRootSpecialValues
  exact fun d a => ⟨fsqrt_nan d, fun _ => fsqrt_of_value_neg d, rfl, rfl, rfl, fsqrt_infinity d,
    isQuietNaN_quietNaN d⟩

end Sys2Proof.Machine.Binary64
end

section
/-! PROOFS. The object temperature (42_conversion.md R148): its edge cases (R152), and that it depends on the two
words read alone, but for the choice of NaN (R154). -/

namespace Sys2Proof.Machine

open Binary64

/-! ### The edge cases -/

/-- R144, R152 (b): a root that does not exist makes the result a NaN. -/
theorem isNaN_rootTempC (k : ConstFile) {nan : Nat → BitVec 52} {q : F64}
    (h : fsqrt (nan 23) q = quietNaN (nan 23)) : isNaN (rootTempC k nan q) = true := by
  rw [rootTempC, h, fsqrt_nan _ (isNaN_quietNaN _), fsub_nan _ (.inl (isNaN_quietNaN _)), isNaN_quietNaN]

theorem isFinite_kOut : isFinite Config.constFile.kOut = true := by decide

/-- R152 (b): the positive infinity is its own root. -/
theorem rootTempC_infinity (nan : Nat → BitVec 52) :
    rootTempC Config.constFile nan (infinity false) = infinity false := by
  rw [rootTempC, fsqrt_infinity, fsqrt_infinity, fsub_eq_fadd]
  exact (fadd_of_isInf_of_isFinite _ (isInf_infinity false) (by rw [isFinite_negate, isFinite_kOut])).1

/-- Settles O31: the root decides the result, and the quotient by the zero the radicand. -/
theorem objectTemperatureEdgeCases : Obligations.ObjectTemperatureEdgeCases := by
  unfold Obligations.ObjectTemperatureEdgeCases
  refine fun nan => ⟨fun q hq => isNaN_rootTempC _ ?_, rootTempC_infinity nan, fun pow4 tdie f z hfin hz =>
    ⟨fun hf hfz => ?_, fun hfz => ?_⟩⟩
  · obtain hnan | ⟨-, hneg⟩ | rfl := hq
    · exact fsqrt_nan _ hnan
    · exact fsqrt_of_value_neg _ hneg
    · rfl
  · rw [radicand, fdiv_of_isZero _ hf hfz hz]
    exact (fadd_of_isInf_of_isFinite _ (isInf_infinity _) hfin).2
  · rw [radicand, fdiv_zero_zero _ hfz hz, fadd_nan _ (.inr (isNaN_quietNaN _)), isNaN_quietNaN]

/-! ### Equal but for the choice of NaN -/

@[simp] theorem sameButNaN_refl (x : F64) : SameButNaN x x := .inl rfl

@[simp] theorem sameButNaN_quietNaN (d d' : BitVec 52) : SameButNaN (quietNaN d) (quietNaN d') :=
  .inr ⟨isNaN_quietNaN d, isNaN_quietNaN d'⟩

/-- An operation that answers a NaN to a NaN, and whose draw decides a NaN only, keeps the relation. -/
theorem sameButNaN_of_draw {op : BitVec 52 → F64 → F64 → F64}
    (hnan : ∀ d {a b}, isNaN a = true ∨ isNaN b = true → op d a b = quietNaN d)
    (hdraw : ∀ d d' a b, SameButNaN (op d a b) (op d' a b)) {d d' : BitVec 52} {a a' b b' : F64}
    (ha : SameButNaN a a') (hb : SameButNaN b b') : SameButNaN (op d a b) (op d' a' b') := by
  obtain rfl | ⟨hna, hna'⟩ := ha
  · obtain rfl | ⟨hnb, hnb'⟩ := hb
    · exact hdraw d d' a b
    · rw [hnan d (.inr hnb), hnan d' (.inr hnb')]
      exact sameButNaN_quietNaN d d'
  · rw [hnan d (.inl hna), hnan d' (.inl hna')]
    exact sameButNaN_quietNaN d d'

section
variable {d d' : BitVec 52} {a a' b b' : F64}

theorem sameButNaN_fadd (ha : SameButNaN a a') (hb : SameButNaN b b') :
    SameButNaN (fadd d a b) (fadd d' a' b') :=
  sameButNaN_of_draw fadd_nan (fun d d' a b => by simp only [fadd]; split_ifs <;> simp) ha hb

theorem sameButNaN_negate (h : SameButNaN a a') : SameButNaN (negate a) (negate a') := by
  obtain rfl | hnan := h
  · exact sameButNaN_refl _
  · exact .inr (by simpa using hnan)

theorem sameButNaN_fsub (ha : SameButNaN a a') (hb : SameButNaN b b') :
    SameButNaN (fsub d a b) (fsub d' a' b') := sameButNaN_fadd ha (sameButNaN_negate hb)

theorem sameButNaN_fmul (ha : SameButNaN a a') (hb : SameButNaN b b') :
    SameButNaN (fmul d a b) (fmul d' a' b') :=
  sameButNaN_of_draw fmul_nan (fun d d' a b => by simp only [fmul]; split_ifs <;> simp) ha hb

theorem sameButNaN_fdiv (ha : SameButNaN a a') (hb : SameButNaN b b') :
    SameButNaN (fdiv d a b) (fdiv d' a' b') :=
  sameButNaN_of_draw fdiv_nan (fun d d' a b => by simp only [fdiv]; split_ifs <;> simp) ha hb

theorem sameButNaN_fsqrt (ha : SameButNaN a a') : SameButNaN (fsqrt d a) (fsqrt d' a') := by
  obtain rfl | ⟨hna, hna'⟩ := ha
  · simp only [fsqrt]
    split_ifs <;> simp
  · rw [fsqrt_nan d hna, fsqrt_nan d' hna']
    exact sameButNaN_quietNaN d d'

end

/-! ### The nine steps -/

section
variable {k : ConstFile} {nan nan' : Nat → BitVec 52} {x x' y y' z z' : F64}

/-- R148 step 2. -/
theorem sameButNaN_vobjVolts (scale : VobjScale) (n : Int) :
    SameButNaN (vobjVolts k scale nan n) (vobjVolts k scale nan' n) := by
  have hv1 : SameButNaN (fmul (nan 1) (i2f n) k.lsbV) (fmul (nan' 1) (i2f n) k.lsbV) :=
    sameButNaN_fmul (sameButNaN_refl _) (sameButNaN_refl _)
  cases scale with
  | mul => exact sameButNaN_fmul hv1 (sameButNaN_refl _)
  | div => exact sameButNaN_fdiv hv1 (sameButNaN_refl _)

/-- The shape `c0 + c1 * x + c2 * x ^ 2` of steps 5 and 6 (R149 a, b, c). -/
theorem sameButNaN_quadratic {d1 d2 d3 d4 d5 e1 e2 e3 e4 e5 : BitVec 52} (c0 c1 c2 : F64)
    (hx : SameButNaN x x') :
    SameButNaN (fadd d1 (fadd d2 c0 (fmul d3 c1 x)) (fmul d4 c2 (fmul d5 x x)))
      (fadd e1 (fadd e2 c0 (fmul e3 c1 x')) (fmul e4 c2 (fmul e5 x' x'))) :=
  sameButNaN_fadd (sameButNaN_fadd (sameButNaN_refl _) (sameButNaN_fmul (sameButNaN_refl _) hx))
    (sameButNaN_fmul (sameButNaN_refl _) (sameButNaN_fmul hx hx))

/-- R148 step 5. -/
theorem sameButNaN_sensitivity (hx : SameButNaN x x') :
    SameButNaN (sensitivity k nan x) (sensitivity k nan' x') :=
  have hs1 := sameButNaN_fmul (sameButNaN_refl k.s0) (sameButNaN_quadratic k.one k.a1 k.a2 hx)
  sameButNaN_fdiv (sameButNaN_fdiv hs1 (sameButNaN_refl _)) (sameButNaN_refl _)

/-- R148 step 6. -/
theorem sameButNaN_offsetVolts (hx : SameButNaN x x') :
    SameButNaN (offsetVolts k nan x) (offsetVolts k nan' x') := sameButNaN_quadratic _ _ _ hx

/-- R148 step 7. -/
theorem sameButNaN_fVobj (hx : SameButNaN x x') (hy : SameButNaN y y') :
    SameButNaN (fVobj k nan x y) (fVobj k nan' x' y') :=
  have hd := sameButNaN_fsub hx hy
  sameButNaN_fadd hd (sameButNaN_fmul (sameButNaN_refl _) (sameButNaN_fmul hd hd))

/-- R148 step 8: the operand of `POW4` has to be the same pattern, for nothing is known of `POW4` on a NaN. -/
theorem sameButNaN_radicand (pow4 : F64 → F64) (hz : z = z') (hx : SameButNaN x x') (hy : SameButNaN y y') :
    SameButNaN (radicand pow4 nan z x y) (radicand pow4 nan' z' x' y') :=
  sameButNaN_fadd (.inl (congrArg pow4 hz)) (sameButNaN_fdiv hx hy)

/-- R148 steps 8 and 9. -/
theorem sameButNaN_rootTempC (hx : SameButNaN x x') :
    SameButNaN (rootTempC k nan x) (rootTempC k nan' x') :=
  sameButNaN_fsub (sameButNaN_fsqrt (sameButNaN_fsqrt hx)) (sameButNaN_refl _)

/-- R148: the nine steps, from the same pattern for the die temperature. -/
theorem sameButNaN_objTempC {scale : VobjScale} {pow4 : F64 → F64} {m : Int} (n : Int)
    (hdie : tdieKelvin k nan m = tdieKelvin k nan' m) :
    SameButNaN (objTempC k scale pow4 nan m n) (objTempC k scale pow4 nan' m n) := by
  have href : SameButNaN (tdieRef k nan (tdieKelvin k nan m)) (tdieRef k nan' (tdieKelvin k nan' m)) :=
    sameButNaN_fsub (.inl hdie) (sameButNaN_refl _)
  exact sameButNaN_rootTempC (sameButNaN_radicand pow4 hdie
    (sameButNaN_fVobj (sameButNaN_vobjVolts scale n) (sameButNaN_offsetVolts href))
    (sameButNaN_sensitivity href))

end

/-! ### The die temperature in kelvin -/

theorem isFinite_kIn : isFinite Config.constFile.kIn = true := by decide

/-- R147: the die temperature is finite, and so no draw decides it. -/
theorem tdieKelvin_draw (nan nan' : Nat → BitVec 52) {m : Int} (hm : m.natAbs < 2 ^ 53) :
    tdieKelvin Config.constFile nan m = tdieKelvin Config.constFile nan' m := by
  obtain ⟨hfin, -, -⟩ := dieTempC_exact nan hm
  have hdie : dieTempC Config.constFile nan m = dieTempC Config.constFile nan' m := by
    obtain ⟨hi2f, -, -⟩ := i2f_exact hm
    rw [dieTempC, dieTempC, fmul_of_isFinite _ hi2f isFinite_lsbT, fmul_of_isFinite _ hi2f isFinite_lsbT]
  rw [tdieKelvin, tdieKelvin, ← hdie, fadd_of_isFinite _ hfin isFinite_kIn, fadd_of_isFinite _ hfin isFinite_kIn]

/-- R134: the die count does not depend on bits 1:0. -/
theorem dieCount_congr {wt wt' : Word} (h : wt &&& 0xFFFC#16 = wt' &&& 0xFFFC#16) :
    dieCount wt = dieCount wt' := by
  rw [dieCount, dieCount, ← asr2_and_mask wt, h, asr2_and_mask]

/-- Settles O30: both runs return the formula's value for the same counts, with draws of their own. -/
theorem objectTemperatureDependsOnWordsOnly : Obligations.ObjectTemperatureDependsOnWordsOnly := by
  unfold Obligations.ObjectTemperatureDependsOnWordsOnly
  intro s s' t t' wt wt' wv h0 h0' hmask h1 h1' ht ht'
  obtain rfl := Host.Outcome.next.inj ((exec_rdobjc_ok h0 h1).symm.trans ht)
  obtain rfl := Host.Outcome.next.inj ((exec_rdobjc_ok h0' h1').symm.trans ht')
  obtain ⟨hlow, hhigh⟩ := dieCount_bounds wt'
  refine ⟨rfl, rfl, _, _, rfl, rfl, ?_⟩
  rw [dieCount_congr hmask]
  exact sameButNaN_objTempC _ (tdieKelvin_draw _ _ (by omega))

end Sys2Proof.Machine
end

section
/-! PROOFS. The square root (42_conversion.md R144): 61 bits of the root and whether anything lies below them decide
its rounding. -/

namespace Sys2Proof.Machine.Binary64

/-! ### The root and what lies below it -/

theorem isqrt_spec {k n : Nat} (h : n < 4 ^ k) :
    isqrt k n * isqrt k n ≤ n ∧ n < (isqrt k n + 1) * (isqrt k n + 1) := by
  induction k generalizing n with
  | zero =>
    obtain rfl : n = 0 := by simpa using h
    decide
  | succ k ih =>
    obtain ⟨hlow, hhigh⟩ := ih (n := n / 4) (by rw [Nat.pow_succ] at h; omega)
    have hlow' : 4 * (isqrt k (n / 4) * isqrt k (n / 4)) ≤ n := by omega
    have hhigh' : n < 4 * ((isqrt k (n / 4) + 1) * (isqrt k (n / 4) + 1)) := by omega
    simp only [isqrt]
    split_ifs with hbit
    · exact ⟨hbit, by linarith⟩
    · exact ⟨by linarith, by omega⟩

/-- The scale of `roundSqrt` leaves a radicand of 121 to 122 bits. -/
theorem roundSqrt_scale {n : Nat} (hn : 2 ^ 120 ≤ n) :
    2 ^ 120 ≤ n / 4 ^ (n.log2 / 2 - 60) ∧ n / 4 ^ (n.log2 / 2 - 60) < 4 ^ 64 := by
  have hpos : n ≠ 0 := by omega
  have hlog : 120 ≤ n.log2 := (Nat.le_log2 hpos).2 hn
  have hfour (e : Nat) : 4 ^ e = 2 ^ (2 * e) := by rw [Nat.pow_mul]
  rw [hfour, hfour 64, Nat.le_div_iff_mul_le (by positivity), Nat.div_lt_iff_lt_mul (by positivity), ← Nat.pow_add,
    ← Nat.pow_add]
  exact ⟨(Nat.le_log2 hpos).1 (by omega), (Nat.log2_lt hpos).1 (by omega)⟩

/-- `roundSqrt` rounds a number between the multiples `r` and `r + 1` of a unit that are on either side of the
root: `r` itself, where it is the root, else the number half way. -/
theorem roundSqrt_eq {n : Nat} (hn : 2 ^ 120 ≤ n) :
    ∃ j r below, roundSqrt n = roundTo false ((2 * r + below) * 2 ^ j) 2 ∧ 2 ^ 60 ≤ r ∧
      (r * 2 ^ j) ^ 2 ≤ n ∧ n < ((r + 1) * 2 ^ j) ^ 2 ∧
      (below = 0 ∧ (r * 2 ^ j) ^ 2 = n ∨ below = 1) := by
  obtain ⟨hbig, hsmall⟩ := roundSqrt_scale hn
  obtain ⟨hlow, hhigh⟩ := isqrt_spec hsmall
  have hunit : 0 < 4 ^ (n.log2 / 2 - 60) := by positivity
  have hsquare (r : Nat) : (r * 2 ^ (n.log2 / 2 - 60)) ^ 2 = r * r * 4 ^ (n.log2 / 2 - 60) := by
    rw [mul_pow, sq r, ← pow_mul, mul_comm _ 2, pow_mul]
    rfl
  have hle := (Nat.le_div_iff_mul_le hunit).1 hlow
  refine ⟨_, _, _, rfl, by nlinarith, ?_, ?_, ?_⟩
  · rwa [hsquare]
  · rw [hsquare]
    exact (Nat.div_lt_iff_lt_mul hunit).1 hhigh
  · rw [hsquare]
    split_ifs with hbelow
    · exact .inr rfl
    · exact .inl ⟨rfl, by omega⟩

/-! ### The nearest value to a number known from one side -/

theorem abs_sub_le_abs_sub_iff {α : Type} [CommRing α] [LinearOrder α] [IsStrictOrderedRing α] {a b s : α} :
    |a - s| ≤ |b - s| ↔ 0 ≤ (b - a) * (a + b - 2 * s) := by
  rw [← sq_le_sq, ← sub_nonneg]
  ring_nf

/-- The root `s` of which `r` units are known, `u` the unit, and what `below` says of the rest. -/
def StickyRoot (s : ℝ) (r below : Nat) (u : ℝ) : Prop :=
  below = 0 ∧ s = r * u ∨ below = 1 ∧ r * u ≤ s ∧ s ≤ (r + 1) * u

theorem StickyRoot.below_le {s u : ℝ} {r below : Nat} (h : StickyRoot s r below u) : below ≤ 1 := by
  obtain ⟨rfl, -⟩ | ⟨rfl, -⟩ := h
  · exact Nat.zero_le 1
  · exact Nat.le_refl 1

theorem StickyRoot.le {s u : ℝ} {r below : Nat} (h : StickyRoot s r below u) : r * u ≤ s := by
  obtain ⟨-, rfl⟩ | ⟨-, hlow, -⟩ := h
  · exact le_rfl
  · exact hlow

/-- Two numbers that lie on the same side of every multiple of `u` have the same nearest even multiple of `u`:
`s`, and the number half way between the multiples around it. -/
theorem abs_sub_le_of_sticky {a b r below : Nat} {u s : ℝ} (hu : 0 ≤ u)
    (hnear : |(4 * a : ℤ) - (2 * r + below)| ≤ |(4 * b : ℤ) - (2 * r + below)|)
    (hs : StickyRoot s r below u) :
    |2 * a * u - s| ≤ |2 * b * u - s| := by
  rw [abs_sub_le_abs_sub_iff] at *
  obtain ⟨rfl, rfl⟩ | ⟨rfl, hlow, hhigh⟩ := hs
  · have hreal : (0 : ℝ) ≤ (4 * b - 4 * a) * (4 * a + 4 * b - 2 * (2 * r + 0)) := by exact_mod_cast hnear
    linarith [mul_nonneg hreal (sq_nonneg u)]
  · rcases lt_trichotomy a b with hab | rfl | hab
    · have hside : r + 1 ≤ a + b := by
        have := nonneg_of_mul_nonneg_right hnear (show (0 : ℤ) < 4 * b - 4 * a by omega)
        omega
      have hab' : (a : ℝ) * u ≤ b * u := mul_le_mul_of_nonneg_right (by exact_mod_cast hab.le) hu
      have hside' : (r + 1 : ℝ) * u ≤ (a + b) * u := mul_le_mul_of_nonneg_right (by exact_mod_cast hside) hu
      exact mul_nonneg (by linarith) (by linarith)
    · simp
    · have hside : a + b ≤ r := by
        have := nonpos_of_mul_nonneg_right hnear (show (4 * b : ℤ) - 4 * a < 0 by omega)
        omega
      have hab' : (b : ℝ) * u ≤ a * u := mul_le_mul_of_nonneg_right (by exact_mod_cast hab.le) hu
      have hside' : (a + b : ℝ) * u ≤ r * u := mul_le_mul_of_nonneg_right (by exact_mod_cast hside) hu
      exact mul_nonneg_of_nonpos_of_nonpos (by linarith) (by linarith)

/-- The unit in the last place of a number with a significand of 61 bits is more than twice the last of them. -/
theorem ulpExp_of_significand {r below j : Nat} (hr : 2 ^ 60 ≤ r) :
    ∃ e, ulpExp ((2 * r + below) * 2 ^ j) 2 = e + 1 + j := by
  have hquot := (Nat.div_lt_iff_lt_mul (by positivity)).1 (ulpExp_significand ((2 * r + below) * 2 ^ j) 2).1
  generalize ulpExp ((2 * r + below) * 2 ^ j) 2 = k at *
  refine ⟨k - (1 + j), ?_⟩
  by_contra hk
  have hle : 2 ^ k ≤ 2 ^ j := Nat.pow_le_pow_right (by decide) (by omega)
  have hbig : 2 ^ 61 * 2 ^ j ≤ (2 * r + below) * 2 ^ j := Nat.mul_le_mul_right _ (by omega)
  omega

/-- `roundSqrt` rounds the number half way between the units around the root, or the root where it is one. -/
theorem roundSqrt_sticky {n : Nat} (hn : 2 ^ 120 ≤ n) :
    ∃ j r below, roundSqrt n = roundTo false ((2 * r + below) * 2 ^ j) 2 ∧ 2 ^ 60 ≤ r ∧
      StickyRoot (√n) r below (2 ^ j : Nat) := by
  obtain ⟨j, r, below, hround, hr, hlow, hhigh, hbelow⟩ := roundSqrt_eq hn
  refine ⟨j, r, below, hround, hr, hbelow.imp (And.imp_right fun hexact => ?_) fun h1 => ⟨h1, ?_, ?_⟩⟩
  · rw [← hexact, Nat.cast_pow, Real.sqrt_sq (by positivity), Nat.cast_mul]
  · exact Real.le_sqrt_of_sq_le (by exact_mod_cast hlow)
  · exact Real.sqrt_le_iff.mpr (And.intro (by positivity) (by exact_mod_cast hhigh.le))

/-- The multiple of the unit nearest to the rounded number is the one nearest to the root: both lie on the same
side of every midpoint. -/
theorem abs_nearestEven_sub_le_of_sticky {s : ℝ} {j r below e : Nat} (hs : StickyRoot s r below (2 ^ j : Nat))
    (m : Nat) :
    |((nearestEven ((2 * r + below) * 2 ^ j) (2 * 2 ^ (e + 1 + j)) * 2 ^ (e + 1 + j) : Nat) : ℝ) - s| ≤
      |((m * 2 ^ (e + 1 + j) : Nat) : ℝ) - s| := by
  have hnear :=
    (nearestEven_nearest ((2 * r + below) * 2 ^ j) m (show 0 < 2 * 2 ^ (e + 1 + j) by positivity)).1
  generalize nearestEven ((2 * r + below) * 2 ^ j) (2 * 2 ^ (e + 1 + j)) = n at *
  have hint (c : Nat) : (c * (2 * 2 ^ (e + 1 + j) : Nat) : ℤ) - ((2 * r + below) * 2 ^ j : Nat) =
      (4 * (c * 2 ^ e : Nat) - (2 * r + below)) * (2 ^ j : Nat) := by
    push_cast
    ring
  have hreal (c : Nat) : ((c * 2 ^ (e + 1 + j) : Nat) : ℝ) = 2 * (c * 2 ^ e : Nat) * (2 ^ j : Nat) := by
    push_cast
    ring
  rw [hint, hint, Int.natAbs_mul, Int.natAbs_mul, Int.natAbs_natCast] at hnear
  rw [hreal, hreal]
  refine abs_sub_le_of_sticky (Nat.cast_nonneg _) ?_ hs
  rw [Int.abs_eq_natAbs, Int.abs_eq_natAbs, Int.ofNat_le]
  exact Nat.le_of_mul_le_mul_right hnear (by positivity)

/-- No value lies nearer to the root than the rounding does: a value of the same unit is a multiple of it, and any
other lies below `2 ^ 52` units, which the root does not. -/
theorem abs_mag_sub_le_of_sticky {s : ℝ} {j r below : Nat} (hr : 2 ^ 60 ≤ r)
    (hs : StickyRoot s r below (2 ^ j : Nat))
    (hfin : isFinite (roundTo false ((2 * r + below) * 2 ^ j) 2) = true) (y : F64) :
    |(mag (roundTo false ((2 * r + below) * 2 ^ j) 2) : ℝ) - s| ≤ |(mag y : ℝ) - s| := by
  obtain ⟨e, he⟩ := ulpExp_of_significand (below := below) (j := j) hr
  have hleast := significand_le (num := (2 * r + below) * 2 ^ j) (den := 2) (by omega)
  rw [he] at hleast
  rw [(mag_roundTo hfin).1, he]
  obtain ⟨m, hm⟩ | ⟨-, hlt⟩ := mag_multiple_or_lt y (e + 1 + j)
  · rw [hm]
    exact abs_nearestEven_sub_le_of_sticky hs m
  · have hroot : ((2 ^ 52 * 2 ^ (e + 1 + j) : Nat) : ℝ) ≤ s := by
      have hunits : 2 ^ 52 * 2 ^ (e + 1 + j) ≤ r * 2 ^ j := by
        have hodd := hs.below_le
        have hunit : 2 ^ 52 * 2 ^ (e + 1 + j) = 2 * (2 ^ 52 * 2 ^ e) * 2 ^ j := by ring
        have hle : 2 * (2 * (2 ^ 52 * 2 ^ e)) ≤ 2 * r + below := by
          refine Nat.le_of_mul_le_mul_right (c := 2 ^ j) ?_ (by positivity)
          rwa [Nat.mul_assoc, ← hunit, Nat.mul_left_comm]
        rw [hunit]
        exact Nat.mul_le_mul_right _ (by omega)
      exact le_trans (by exact_mod_cast hunits) hs.le
    have hbelow : (mag y : ℝ) ≤ (2 ^ 52 * 2 ^ (e + 1 + j) : Nat) := by exact_mod_cast hlt.le
    refine (abs_nearestEven_sub_le_of_sticky hs (2 ^ 52)).trans ?_
    rw [abs_of_nonpos (by linarith), abs_of_nonpos (by linarith)]
    linarith

/-- A root of the radicand of a finite value is in range. -/
theorem isFinite_roundTo_of_sticky {n j r below : Nat} (hn : n < overflowBound * one64) (hr : 2 ^ 60 ≤ r)
    (hs : StickyRoot (√n) r below (2 ^ j : Nat)) :
    isFinite (roundTo false ((2 * r + below) * 2 ^ j) 2) = true := by
  have hsq : (r * 2 ^ j) ^ 2 ≤ n := by
    have hreal := pow_le_pow_left₀ (mul_nonneg (Nat.cast_nonneg r) (Nat.cast_nonneg _)) hs.le 2
    rw [Real.sq_sqrt (Nat.cast_nonneg n)] at hreal
    exact_mod_cast hreal
  have hbelow := hs.below_le
  have hnum : (2 * r + below) * 2 ^ j ≤ 4 * r * 2 ^ j := Nat.mul_le_mul_right _ (by omega)
  have hone : 4 * one64 ≤ overflowBound := by decide +kernel
  rw [isFinite_roundTo_iff_lt _ _ (by decide)]
  by_contra hlarge
  have hroot : overflowBound ≤ 2 * (r * 2 ^ j) := by linarith
  have := Nat.mul_le_mul hroot hroot
  have := Nat.mul_le_mul_left overflowBound hone
  linarith

theorem fsqrt_of_pos (d : BitVec 52) {a : F64} (ha : isFinite a = true) (hz : isZero a = false)
    (hs : sign a = false) : fsqrt d a = roundSqrt (mag a * one64) := by
  simp [fsqrt, isNaN_of_isFinite ha, hz, hs]

/-- Settles O35: the radicand in units of 2^-2148 is large enough for 61 bits of its root to be known, and they
decide the rounding. -/
theorem squareRootIsCorrectlyRounded : Obligations.SquareRootIsCorrectlyRounded := by
  unfold Obligations.SquareRootIsCorrectlyRounded
  intro d a y ha hz hs _
  have hone : 2 ^ 120 ≤ one64 := by decide +kernel
  have hroot : ((mag a * one64 : Nat) : ℝ) = mag a * 2 ^ 1074 := by
    rw [Nat.cast_mul, one64, Nat.cast_pow, Nat.cast_ofNat]
  obtain ⟨j, r, below, hround, hr, hsticky⟩ :=
    roundSqrt_sticky (hone.trans (Nat.le_mul_of_pos_left one64 (mag_pos hz)))
  have hfin := isFinite_roundTo_of_sticky
    (Nat.mul_lt_mul_of_pos_right (mag_lt_overflowBound ha) one64_pos) hr hsticky
  rw [fsqrt_of_pos d ha hz hs, hround, ← hroot]
  exact ⟨hfin, sign_roundTo .., abs_mag_sub_le_of_sticky hr hsticky hfin y⟩

end Sys2Proof.Machine.Binary64
end

section
/-! PROOFS. The converter's faults (60_exceptions.md R170 to R178): IllegalCommand at decode, InvalidArgument before
the bus, and TransportError at the transaction that fails. -/

namespace Sys2Proof.Machine

/-- Settles O54: each arm of `exec` is a next state. -/
theorem everyCommandAnswersNextState : Obligations.EveryCommandAnswersNextState := by
  unfold Obligations.EveryCommandAnswersNextState
  intro i s
  cases i with
  | init rate | sleep | wake | rdvobj | rdtamb | rddiec | rdobjc => exact ⟨_, rfl⟩

/-! ### IllegalCommand -/

/-- R173: a step on a command word that does not decode raises IllegalCommand, with the word taken. -/
theorem step_of_decode_error {s : State} {w : Word} {rest : List Word} {e : DecodeError}
    (hw : s.waiting = false) (hc : s.cmds = w :: rest) (hd : decode w = .error e) :
    step s = .next (raise .illegalCommand { s with cmds := rest }) := by
  simp [step, hw, fetch_cons w rest s hc, issue, hd]

/-- Settles O11: a word of no row does not decode. -/
theorem illegalWordRaisesIllegalCommand : Obligations.IllegalWordRaisesIllegalCommand := by
  unfold Obligations.IllegalWordRaisesIllegalCommand
  intro s w rest hw hc htable
  obtain ⟨e, hd⟩ : ∃ e, decode w = .error e := by
    rw [exists_eq_error_iff, ← inOpcodeTable_iff, htable]
    exact Bool.false_ne_true
  exact ⟨_, step_of_decode_error hw hc hd, rfl, rfl, rfl⟩

/-! ### InvalidArgument -/

/-- A command that ends in this state has not raised InvalidArgument. -/
def EndsWithLegalArgument (t : State) : Prop := t.waiting = false → t.status ≠ .invalidArgument

theorem endsWithLegalArgument_complete (k : RKind) (v : Option F64) (s : State) :
    EndsWithLegalArgument (complete k v s) := fun _ => nofun

theorem endsWithLegalArgument_fail (e : TransportErr) (s : State) :
    EndsWithLegalArgument (raise (.transportError e) s) := fun _ => nofun

theorem endsWithLegalArgument_hang (s : State) : EndsWithLegalArgument (hang s) := nofun

theorem memRead_endsWithLegalArgument {r : Reg} {s : State} {next : Word → State → State}
    (hnext : ∀ w u, EndsWithLegalArgument (next w u)) : EndsWithLegalArgument (memRead r s next) :=
  memRead_cases EndsWithLegalArgument (fun _ _ => hnext _ _) (fun e _ _ => endsWithLegalArgument_fail e _)
    (fun _ _ => endsWithLegalArgument_hang _)

theorem memWrite_endsWithLegalArgument {w : Word} {s : State} {next : State → State}
    (hnext : ∀ u, EndsWithLegalArgument (next u)) : EndsWithLegalArgument (memWrite w s next) :=
  memWrite_cases EndsWithLegalArgument (fun _ _ => hnext _) (fun e _ _ => endsWithLegalArgument_fail e _)
    (fun _ _ => endsWithLegalArgument_hang _)

theorem rewriteMode_endsWithLegalArgument (edit : Word → Word) (p : PState) (s : State) :
    EndsWithLegalArgument (rewriteMode edit p s) :=
  memRead_endsWithLegalArgument fun _ _ => memWrite_endsWithLegalArgument fun _ =>
    endsWithLegalArgument_complete _ _ _

/-- R171: only INIT can raise InvalidArgument. -/
theorem exec_endsWithLegalArgument {i : Instr} (hi : ∀ rate, i ≠ .init rate) {s t : State}
    (h : exec i s = .next t) : EndsWithLegalArgument t := by
  cases i with
  | init rate => exact absurd rfl (hi rate)
  | sleep =>
    obtain rfl := Host.Outcome.next.inj ((exec_sleep s).symm.trans h)
    exact rewriteMode_endsWithLegalArgument _ _ s
  | wake =>
    obtain rfl := Host.Outcome.next.inj ((exec_wake s).symm.trans h)
    exact rewriteMode_endsWithLegalArgument _ _ s
  | rdvobj | rdtamb | rddiec =>
    obtain rfl := Host.Outcome.next.inj h
    exact memRead_endsWithLegalArgument fun _ _ => endsWithLegalArgument_complete _ _ _
  | rdobjc =>
    obtain rfl := Host.Outcome.next.inj ((exec_rdobjc s).symm.trans h)
    exact memRead_endsWithLegalArgument fun _ _ => memRead_endsWithLegalArgument fun _ _ =>
      endsWithLegalArgument_complete _ _ _

/-- Settles O14: the mask is undefined on an illegal rate, and only INIT asks for one. -/
theorem illegalRateRaisesInvalidArgument : Obligations.IllegalRateRaisesInvalidArgument := by
  unfold Obligations.IllegalRateRaisesInvalidArgument
  refine ⟨fun s rate hrate => ?_, fun i s t hi h => exec_endsWithLegalArgument hi h⟩
  exact ⟨_, exec_init_illegal ((crmask_eq_none_iff rate).2 hrate) s, rfl, rfl⟩

/-! ### TransportError -/

/-- Settles O28: each read that fails raises TransportError, the second with the first on the record. -/
theorem rdobjcFailsAtEachTransaction : Obligations.RdobjcFailsAtEachTransaction := by
  unfold Obligations.RdobjcFailsAtEachTransaction
  refine fun s e => ⟨fun left h0 => ?_, fun wt left h0 h1 => ?_⟩
  · rw [exec_rdobjc, memRead_fail_afterBus h0]
    rfl
  · rw [exec_rdobjc, memRead_ok_afterBus h0, memRead_fail_afterBus (by simpa using h1), afterBus_afterBus]
    rfl

/-- From `s` to `t` the record has grown by transactions none of which failed. -/
def AddsNoFailure (s t : State) : Prop :=
  ∃ new, t.bus = s.bus ++ new ∧ ∀ q e, { req := q, res := .failed e } ∉ new

theorem AddsNoFailure.refl (s : State) : AddsNoFailure s s := ⟨[], by simp⟩

theorem AddsNoFailure.transact {s t : State} (h : AddsNoFailure s t) (q : Request) {a : Response}
    (ha : ∀ e, a ≠ .failed e) (v : Sensor) : AddsNoFailure s (transact q a v t) := by
  obtain ⟨new, hbus, hnew⟩ := h
  refine ⟨new ++ [{ req := q, res := a }], by rw [transact_bus, hbus, List.append_assoc],
    fun q' e hmem => ?_⟩
  obtain hmem | heq := List.mem_append.1 hmem
  · exact hnew q' e hmem
  · exact ha e (congrArg Transfer.res (List.mem_singleton.1 heq)).symm

theorem AddsNoFailure.hang {s t : State} (h : AddsNoFailure s t) : AddsNoFailure s (hang t) := h

/-- What the record of a command says of its end (R172): no transaction failed, and a command that ends does so
without TransportError; or the last one failed, and the command ends there with the transport's value. -/
def EndsAsRecorded (s t : State) : Prop :=
  (AddsNoFailure s t ∧ (t.waiting = false → t.status ≠ .transportError)) ∨
    ∃ u q e v, AddsNoFailure s u ∧ t = raise (.transportError e) (transact q (.failed e) v u)

theorem exec_endsAsRecorded {i : Instr} {s t : State} (h : exec i s = .next t) : EndsAsRecorded s t :=
  exec_keeps (M := AddsNoFailure s) (E := EndsAsRecorded s)
    (hread := fun _ _ _ hm => hm.transact _ (by simp) _)
    (hreadFail := fun _ u _ hm => .inr ⟨u, _, _, _, hm, rfl⟩)
    (hreadNever := fun _ _ hm => .inl ⟨(hm.transact _ (by simp) _).hang, nofun⟩)
    (hwrite := fun _ _ _ hm => hm.transact _ (by simp) _)
    (hwriteFail := fun _ u _ _ hm => .inr ⟨u, _, _, _, hm, rfl⟩)
    (hwriteNever := fun _ _ _ hm => .inl ⟨(hm.transact _ (by simp) _).hang, nofun⟩)
    (hpower := fun _ _ hm => hm)
    (hcomplete := fun _ _ _ _ hm => .inl ⟨hm, fun _ => nofun⟩)
    (hrefuse := fun _ hm => .inl ⟨hm, fun _ => nofun⟩)
    (.refl s) h

/-- Settles O46: the record holds no failure and the command does not end with TransportError, or its last
transaction is the only one that failed and the command has raised that failure. -/
theorem transportFailureEndsCommand : Obligations.TransportFailureEndsCommand := by
  unfold Obligations.TransportFailureEndsCommand
  intro i s t new h hbus
  obtain ⟨⟨ts, hts, hnone⟩, hstatus⟩ | ⟨u, q, e, v, ⟨ts, hts, hnone⟩, rfl⟩ := exec_endsAsRecorded h
  · obtain rfl := List.append_cancel_left (hts.symm.trans hbus)
    exact ⟨fun q e hmem => absurd hmem (hnone q e), fun hw hte => absurd hte (hstatus hw)⟩
  · obtain rfl : ts ++ [{ req := q, res := .failed e }] = new := by
      rw [raise_bus, transact_bus, hts, List.append_assoc] at hbus
      exact List.append_cancel_left hbus
    refine ⟨fun q' e' hmem => ?_, fun _ _ => ⟨q, e, List.getLast?_concat, rfl⟩⟩
    obtain hmem | heq := List.mem_append.1 hmem
    · exact absurd hmem (hnone q' e')
    · cases List.mem_singleton.1 heq
      exact ⟨rfl, rfl, rfl, rfl, List.getLast?_concat⟩

end Sys2Proof.Machine
end

section
/-! PROOFS. The idle converter and the hung one (70_reset_and_hazards.md R200, R212; 93_implementation_defined.md
U14): what a step does when there is no command to run, and when a command waits without limit. -/

namespace Sys2Proof.Machine

/-! ### The idle converter -/

/-- Settles O10: with no word to fetch the step goes nowhere. -/
theorem idleStepChangesNothing : Obligations.IdleStepChangesNothing := by
  unfold Obligations.IdleStepChangesNothing
  intro s hw hc
  simp [step, hw, fetch_nil s hc]

/-! ### The hung converter -/

/-- U14: a converter that waits has no enabled step. -/
theorem step_of_waiting {s : State} (hw : s.waiting = true) : step s = .fault .transportNeverAnswers := by
  simp [step, hw]

/-- From `s` to `t` the transport has answered every transaction: `t` does not wait, and the record has grown by
answered transactions only. -/
def AnsweredSoFar (s t : State) : Prop :=
  t.waiting = false ∧ ∃ new, t.bus = s.bus ++ new ∧ ∀ x ∈ new, Transfer.answered x = true

theorem AnsweredSoFar.refl {s : State} (hw : s.waiting = false) : AnsweredSoFar s s := ⟨hw, [], by simp⟩

theorem AnsweredSoFar.transact {s t : State} (h : AnsweredSoFar s t) (q : Request) {a : Response}
    (ha : Transfer.answered { req := q, res := a } = true) (v : Sensor) :
    AnsweredSoFar s (transact q a v t) := by
  obtain ⟨hw, new, hbus, hnew⟩ := h
  refine ⟨hw, new ++ [{ req := q, res := a }], by rw [transact_bus, hbus, List.append_assoc], fun x hx => ?_⟩
  obtain hx | hx := List.mem_append.1 hx
  · exact hnew x hx
  · exact List.mem_singleton.1 hx ▸ ha

theorem AnsweredSoFar.raise {s t : State} (h : AnsweredSoFar s t) (f : CmdFault) : AnsweredSoFar s (raise f t) := h

theorem AnsweredSoFar.complete {s t : State} (h : AnsweredSoFar s t) (k : RKind) (v : Option F64) :
    AnsweredSoFar s (complete k v t) := h

/-- R212: a command ends with every transaction answered, or it hangs at the first one that is not, before it has
written an outcome register. -/
def EndsOrHangs (s t : State) : Prop :=
  AnsweredSoFar s t ∨
    ∃ u q v, AnsweredSoFar s u ∧ observe u = observe s ∧ t = hang (transact q .pending v u)

theorem exec_endsOrHangs {i : Instr} {s t : State} (hw : s.waiting = false) (h : exec i s = .next t) :
    EndsOrHangs s t :=
  exec_keeps (M := fun u => AnsweredSoFar s u ∧ observe u = observe s) (E := EndsOrHangs s)
    (hread := fun _ _ _ ⟨ha, ho⟩ => ⟨ha.transact _ rfl _, ho⟩)
    (hreadFail := fun _ _ _ ⟨ha, _⟩ => .inl ((ha.transact _ rfl _).raise _))
    (hreadNever := fun _ u ⟨ha, ho⟩ => .inr ⟨u, _, _, ha, ho, rfl⟩)
    (hwrite := fun _ _ _ ⟨ha, ho⟩ => ⟨ha.transact _ rfl _, ho⟩)
    (hwriteFail := fun _ _ _ _ ⟨ha, _⟩ => .inl ((ha.transact _ rfl _).raise _))
    (hwriteNever := fun _ u _ ⟨ha, ho⟩ => .inr ⟨u, _, _, ha, ho, rfl⟩)
    (hpower := fun _ _ h => h)
    (hcomplete := fun _ _ _ _ ⟨ha, _⟩ => .inl (ha.complete _ _))
    (hrefuse := fun _ ⟨ha, _⟩ => .inl (ha.raise _))
    ⟨.refl hw, rfl⟩ h

/-- Settles O47: a command that ends has no unanswered transaction on the record; one that hangs has the
unanswered one last, and has left the outcome registers alone. -/
theorem unansweredTransactionHangsConverter : Obligations.UnansweredTransactionHangsConverter := by
  unfold Obligations.UnansweredTransactionHangsConverter
  intro i s t new hs h hbus
  obtain ⟨hwait, ts, hts, hall⟩ | ⟨u, q, v, ⟨_, ts, hts, _⟩, hobs, rfl⟩ := exec_endsOrHangs hs h
  · obtain rfl := List.append_cancel_left (hts.symm.trans hbus)
    have hlast : ¬ ∃ q, ts.getLast? = some { req := q, res := .pending } := fun ⟨_, hq⟩ =>
      absurd (hall _ (List.mem_of_getLast? hq)) (by simp [Transfer.answered])
    rw [hwait]
    exact ⟨iff_of_false Bool.false_ne_true hlast, nofun⟩
  · obtain rfl : ts ++ [{ req := q, res := .pending }] = new := by
      rw [hang_bus, transact_bus, hts, List.append_assoc] at hbus
      exact List.append_cancel_left hbus
    obtain ⟨hst, hrk, hre, her⟩ := Observation.mk.inj hobs
    exact ⟨iff_of_true rfl ⟨q, List.getLast?_concat⟩, fun hw => ⟨hst, hrk, hre, her, step_of_waiting hw⟩⟩

end Sys2Proof.Machine
end
